-- ==== Sys2Proof/Word.lean ====
section
/-! DEFINITION. The word types of FSYNC: every datum is a byte or a finite sequence of bytes (00_scope.md R7, R9). -/

namespace Sys2Proof

/-- A byte, 8 bits (R7). -/
abbrev Byte := BitVec 8

/-- A nibble, the operand of HEX.FMT (R100). -/
abbrev Nibble := BitVec 4

/-- The 12-bit event word `ev` of the input port (R75). -/
abbrev EventWord := BitVec 12

/-- `Seq Byte`: index 0 is the first byte received or sent (R9). -/
abbrev Bytes := List Byte

end Sys2Proof
end

