-- ==== Sys2Proof/Config.lean ====
section
/-! DEFINITION. The implementation parameters of 00_scope.md R6 and the one free value of the model. -/

namespace Sys2Proof

/-- A length bound: a natural number, or `INF` (R6, the domains of CAND_MAX and LINE_MAX). -/
inductive Bound where
  | fin (n : Nat)
  | inf
deriving DecidableEq, Repr

/-- `DEC_HEX_LOWER` (R6): whether a receiver accepts lowercase hex digits. -/
inductive HexLower where
  | accept
  | reject
deriving DecidableEq, Repr

/-- `DEC_PAYLOAD_CHECK` (R6): whether DEC refuses a reserved byte inside the payload. -/
inductive PayloadCheck where
  | none
  | reserved
deriving DecidableEq, Repr

/-- The parameters of R6, fixed for a model instance (10_state.md R33).
The unit of `pollTimeout` is left open: no rule reads it (R193). -/
structure Params where
  candMax         : Bound
  lineMax         : Bound
  decHexLower     : HexLower
  decPayloadCheck : PayloadCheck
  pollTimeout     : Nat
  fatalExitCode   : Int
  deviceId        : Bytes
deriving DecidableEq, Repr

/-- A bound that is at least `k`; `INF` is at least every number. -/
def Bound.atLeast (k : Nat) : Bound → Bool
  | .fin n => decide (k ≤ n)
  | .inf => true

/-- The domains of R6: `CAND_MAX >= 6` or INF, `LINE_MAX >= 1` or INF, a positive timeout, a nonzero fatal code. -/
def Params.wf (p : Params) : Bool :=
  p.candMax.atLeast 6 && p.lineMax.atLeast 1 && decide (0 < p.pollTimeout) && decide (p.fatalExitCode ≠ 0)

/-- The instance of State.reset. DEC_HEX_LOWER and DEC_PAYLOAD_CHECK have the defaults of R6; the two bounds are INF
as in the conventions of 95_test_vectors.md, which gives the original behaviour (R139).
DESIGN CHOICE (log 2), unsafe: the last three are OPEN and carry values of the model. Claims quantify over `Params`. -/
def Config.params : Params where
  candMax := .inf
  lineMax := .inf
  decHexLower := .accept
  decPayloadCheck := .none
  pollTimeout := 1
  fatalExitCode := 1
  deviceId := []

/-- FREE VALUE (log 9), safe: how many bytes of the frame reached the wire at the n-th failed write.
"any prefix of `frame`, from empty to the whole, is admitted" (20_memory.md R47). It has no body, so nothing can be
proved of its values. -/
opaque Config.wirePrefix : Nat → Nat

end Sys2Proof
end

