-- ==== Sys2Proof/Machine/Operands.lean ====
section
/-! DEFINITION. Operand forms: the protocol characters, the byte classes of RSM, the line classes of TX.LINE, the
length bounds and the nibbles of a byte. -/

namespace Sys2Proof.Machine

/-- `$`, the start delimiter (30_encoding.md R60). -/
abbrev chDollar : Byte := 0x24

/-- `*`, the checksum delimiter (R60). -/
abbrev chStar : Byte := 0x2A

/-- CR, first terminator byte (R60). -/
abbrev chCr : Byte := 0x0D

/-- LF, second terminator byte (R60). -/
abbrev chLf : Byte := 0x0A

/-- Membership in `RES = {0x24, 0x2A, 0x0D, 0x0A}` (R63). -/
def isReserved (b : Byte) : Bool :=
  b == chDollar || b == chStar || b == chCr || b == chLf

/-- The three byte classes RSM distinguishes (R64). -/
inductive ByteClass where
  | dollar
  | lf
  | other
deriving DecidableEq, Repr

/-- Every byte value is in exactly one class (R64). -/
def byteClass (b : Byte) : ByteClass :=
  if b = chDollar then .dollar else if b = chLf then .lf else .other

/-- The text `exit`: 0x65 0x78 0x69 0x74 (R72). -/
def exitLine : Bytes := [0x65, 0x78, 0x69, 0x74]

/-- `n > bound`; never when the bound is INF. -/
def exceeds (m : Bound) (n : Nat) : Bool :=
  match m with
  | .fin k => decide (k < n)
  | .inf => false

/-- `n = bound`; never when the bound is INF (R133, R135). -/
def reaches (m : Bound) (n : Nat) : Bool :=
  match m with
  | .fin k => decide (n = k)
  | .inf => false

/-- The four line classes of R72. -/
inductive LineClass where
  | empty
  | exit
  | tooLong
  | send
deriving DecidableEq, Repr

/-- The class of an operator line, "tested in this order" (R72). -/
def lineClass (lineMax : Bound) (l : Bytes) : LineClass :=
  if l = [] then .empty
  else if l = exitLine then .exit
  else if exceeds lineMax l.length then .tooLong
  else .send

/-- `v[7:4]` (00_scope.md R8). -/
def hiNibble (b : Byte) : Nibble := b.extractLsb' 4 4

/-- `v[3:0]` (R8). -/
def loNibble (b : Byte) : Nibble := b.extractLsb' 0 4

end Sys2Proof.Machine
end

