-- ==== Sys2Proof/Syntax.lean ====
section
/-! DEFINITION. The operations of FSYNC, one constructor per row of spec/opcode_table.json. -/

namespace Sys2Proof

/-- The environment's answer to `TxWrite`, `ev[0]` of TX.LINE: 0 = OK, 1 = IOERR (30_encoding.md R76). -/
inductive WriteOutcome where
  | ok
  | ioerr
deriving DecidableEq, Repr

/-- One event the block accepts (30_encoding.md R76, spec/opcode_table.json). A TX row carries the write outcome `w`;
TX.TOOLONG and TX.SEND carry the line, which TX.EMPTY and TX.EXIT fix. -/
inductive Instr where
  /-- RX.NONE: the poll found no byte (R157). -/
  | rxNone
  /-- RX.DOLLAR: the received byte 0x24 (R131). -/
  | rxDollar
  /-- RX.LF: the received byte 0x0A (R134). -/
  | rxLf
  /-- RX.OTHER: any other received byte (R133). -/
  | rxOther (b : Byte)
  /-- RX.IOERR: a transport failure on read (R158). -/
  | rxIoerr
  /-- RX.CHECK: the termination check (R152). -/
  | rxCheck
  /-- TX.EMPTY: an empty line (R161). -/
  | txEmpty (w : WriteOutcome)
  /-- TX.EXIT: the line `exit` (R163). -/
  | txExit (w : WriteOutcome)
  /-- TX.TOOLONG: a line longer than LINE_MAX (R164). -/
  | txTooLong (w : WriteOutcome) (line : Bytes)
  /-- TX.SEND: any other line (R165, R166). -/
  | txSend (w : WriteOutcome) (line : Bytes)
  /-- CK.CLR: clear the accumulator (R90). -/
  | ckClr
  /-- CK.ACC: accumulate one byte (R91). -/
  | ckAcc (b : Byte)
  /-- HEX.FMT: format one nibble (R100). -/
  | hexFmt (n : Nibble)
  /-- HEX.VAL: parse one hex digit (R101). -/
  | hexVal (c : Byte)
  /-- ENC: encode a payload (R103). -/
  | enc (payload : Bytes)
  /-- DEC: decode a frame (R106). -/
  | dec (frame : Bytes)
  /-- RESET (R210). -/
  | reset
deriving DecidableEq, Repr

end Sys2Proof
end

