-- ==== Sys2Proof/WellFormed.lean ====
section
/-! DEFINITION. Which instructions are the meaning of some event: the operand classes of spec/opcode_table.json. -/

namespace Sys2Proof

/-- The operand class each row asks for (30_encoding.md R64, R72). The class of a line depends on LINE_MAX. Every
other operand is bounded by its type. -/
def Instr.wf (lineMax : Bound) : Instr → Bool
  | .rxOther b => Machine.byteClass b == .other
  | .txTooLong _ l => Machine.lineClass lineMax l == .tooLong
  | .txSend _ l => Machine.lineClass lineMax l == .send
  | .rxNone | .rxDollar | .rxLf | .rxIoerr | .rxCheck | .txEmpty _ | .txExit _ => true
  | .ckClr | .ckAcc _ | .hexFmt _ | .hexVal _ | .enc _ | .dec _ | .reset => true

end Sys2Proof
end

