-- ==== Sys2Proof/Decode.lean ====
section
/-! DEFINITION. The event word of the input port (30_encoding.md R75-R77): the decoder, total on every event and
rejecting by name; then the encoder; then the opcode table as data. -/

namespace Sys2Proof

/-- What the host offers at the input port: the event word and the side operand, if one is given (R75). -/
structure PortEvent where
  ev   : EventWord
  opnd : Option Bytes
deriving DecidableEq, Repr

/-- Why an offered event is not a valid one (R77). -/
inductive DecodeError where
  /-- The class is 0xB to 0xE. -/
  | reservedClass (cls : Nibble)
  /-- A data bit that must be 0 is not. -/
  | mustBeZero (ev : EventWord)
  /-- TX.LINE, ENC or DEC without its side operand. -/
  | operandMissing (cls : Nibble)
  /-- A side operand with any other class. -/
  | operandUnexpected (cls : Nibble)
deriving DecidableEq, Repr

/-- `ev[11:8]` (R75). -/
def evClass (ev : EventWord) : Nibble := ev.extractLsb' 8 4

/-- `ev[7:0]` (R75). -/
def evData (ev : EventWord) : Byte := ev.extractLsb' 0 8

/-- An event without a side operand. -/
def plainEvent (e : PortEvent) (i : Instr) : Except DecodeError Instr :=
  match e.opnd with
  | none => .ok i
  | some _ => .error (.operandUnexpected (evClass e.ev))

/-- An event that takes its operand from the side operand port. -/
def operandEvent (e : PortEvent) (i : Bytes → Instr) : Except DecodeError Instr :=
  match e.opnd with
  | none => .error (.operandMissing (evClass e.ev))
  | some x => .ok (i x)

/-- A data field that must be 0 (R76, R77). -/
def requireZero (e : PortEvent) {n : Nat} (field : BitVec n) (r : Except DecodeError Instr) : Except DecodeError Instr :=
  if field = 0 then r else .error (.mustBeZero e.ev)

/-- The sub-class of RX.BYTE (R76). -/
def rxByteInstr (b : Byte) : Instr :=
  match Machine.byteClass b with
  | .dollar => .rxDollar
  | .lf => .rxLf
  | .other => .rxOther b

/-- The row a TX.LINE falls into (R72, R159). -/
def txLineInstr (lineMax : Bound) (w : WriteOutcome) (l : Bytes) : Instr :=
  match Machine.lineClass lineMax l with
  | .empty => .txEmpty w
  | .exit => .txExit w
  | .tooLong => .txTooLong w l
  | .send => .txSend w l

/-- `ev[0]` of TX.LINE (R76). -/
def evWrite (ev : EventWord) : WriteOutcome := if ev.getLsbD 0 then .ioerr else .ok

/-- The event classes of R76. The bits of `ev` are tested first, then the presence of the operand. -/
def decode (lineMax : Bound) (e : PortEvent) : Except DecodeError Instr :=
  match (evClass e.ev).toNat with
  | 0x0 => requireZero e (evData e.ev) (plainEvent e .rxNone)
  | 0x1 => plainEvent e (rxByteInstr (evData e.ev))
  | 0x2 => requireZero e (evData e.ev) (plainEvent e .rxIoerr)
  | 0x3 => requireZero e (evData e.ev) (plainEvent e .rxCheck)
  | 0x4 => requireZero e (e.ev.extractLsb' 1 7) (operandEvent e (txLineInstr lineMax (evWrite e.ev)))
  | 0x5 => requireZero e (evData e.ev) (plainEvent e .ckClr)
  | 0x6 => plainEvent e (.ckAcc (evData e.ev))
  | 0x7 => requireZero e (e.ev.extractLsb' 4 4) (plainEvent e (.hexFmt (e.ev.extractLsb' 0 4)))
  | 0x8 => plainEvent e (.hexVal (evData e.ev))
  | 0x9 => requireZero e (evData e.ev) (operandEvent e .enc)
  | 0xA => requireZero e (evData e.ev) (operandEvent e .dec)
  | 0xF => requireZero e (evData e.ev) (plainEvent e .reset)
  | _ => .error (.reservedClass (evClass e.ev))

/-! The encoder, from the same table (R76, R78). -/

/-- The event word of a class and its data: `ev[11:8] = class`, `ev[7:0] = data` (R75). -/
def evWord (cls : Nibble) (data : Byte) : EventWord := cls.setWidth 12 <<< 8 ||| data.setWidth 12

/-- `ev[7:0]` of a TX.LINE: `ev[0] = w`, the other bits 0 (R76). -/
def writeData : WriteOutcome → Byte
  | .ok => 0
  | .ioerr => 1

/-- The event of an instruction (R76, R78). -/
def encode : Instr → PortEvent
  | .rxNone => ⟨evWord 0x0 0, none⟩
  | .rxDollar => ⟨evWord 0x1 Machine.chDollar, none⟩
  | .rxLf => ⟨evWord 0x1 Machine.chLf, none⟩
  | .rxOther b => ⟨evWord 0x1 b, none⟩
  | .rxIoerr => ⟨evWord 0x2 0, none⟩
  | .rxCheck => ⟨evWord 0x3 0, none⟩
  | .txEmpty w => ⟨evWord 0x4 (writeData w), some []⟩
  | .txExit w => ⟨evWord 0x4 (writeData w), some Machine.exitLine⟩
  | .txTooLong w l => ⟨evWord 0x4 (writeData w), some l⟩
  | .txSend w l => ⟨evWord 0x4 (writeData w), some l⟩
  | .ckClr => ⟨evWord 0x5 0, none⟩
  | .ckAcc b => ⟨evWord 0x6 b, none⟩
  | .hexFmt n => ⟨evWord 0x7 (n.setWidth 8), none⟩
  | .hexVal c => ⟨evWord 0x8 c, none⟩
  | .enc p => ⟨evWord 0x9 0, some p⟩
  | .dec f => ⟨evWord 0xA 0, some f⟩
  | .reset => ⟨evWord 0xF 0, none⟩

/-! The opcode table as data. -/

/-- A row of spec/opcode_table.json: `ev` matches when `(ev & mask) = pattern`; `operand` says whether the row takes
the side operand. -/
structure OpcodeRow where
  mnemonic : String
  pattern  : EventWord
  mask     : EventWord
  operand  : Bool
deriving DecidableEq, Repr

/-- Whether an event word matches a row. -/
def OpcodeRow.fits (r : OpcodeRow) (ev : EventWord) : Bool := ev &&& r.mask == r.pattern

/-- The rows of spec/opcode_table.json in its order. -/
def opcodeTable : List OpcodeRow :=
  [⟨"RX.NONE", 0x000, 0xFFF, false⟩, ⟨"RX.DOLLAR", 0x124, 0xFFF, false⟩, ⟨"RX.LF", 0x10A, 0xFFF, false⟩,
   ⟨"RX.OTHER", 0x100, 0xF00, false⟩, ⟨"RX.IOERR", 0x200, 0xFFF, false⟩, ⟨"RX.CHECK", 0x300, 0xFFF, false⟩,
   ⟨"TX.EMPTY", 0x400, 0xFFE, true⟩, ⟨"TX.EXIT", 0x400, 0xFFE, true⟩, ⟨"TX.TOOLONG", 0x400, 0xFFE, true⟩,
   ⟨"TX.SEND", 0x400, 0xFFE, true⟩, ⟨"CK.CLR", 0x500, 0xFFF, false⟩, ⟨"CK.ACC", 0x600, 0xF00, false⟩] ++
  [⟨"HEX.FMT", 0x700, 0xFF0, false⟩, ⟨"HEX.VAL", 0x800, 0xF00, false⟩, ⟨"ENC", 0x900, 0xFFF, true⟩,
   ⟨"DEC", 0xA00, 0xFFF, true⟩, ⟨"RESET", 0xF00, 0xFFF, false⟩]

/-- The row of an instruction, by its name in spec/opcode_table.json. -/
def Instr.mnemonic : Instr → String
  | .rxNone => "RX.NONE"
  | .rxDollar => "RX.DOLLAR"
  | .rxLf => "RX.LF"
  | .rxOther _ => "RX.OTHER"
  | .rxIoerr => "RX.IOERR"
  | .rxCheck => "RX.CHECK"
  | .txEmpty _ => "TX.EMPTY"
  | .txExit _ => "TX.EXIT"
  | .txTooLong _ _ => "TX.TOOLONG"
  | .txSend _ _ => "TX.SEND"
  | .ckClr => "CK.CLR"
  | .ckAcc _ => "CK.ACC"
  | .hexFmt _ => "HEX.FMT"
  | .hexVal _ => "HEX.VAL"
  | .enc _ => "ENC"
  | .dec _ => "DEC"
  | .reset => "RESET"

/-! Words of the opcode table. -/

/-- Whether a class takes the side operand: TX.LINE, ENC and DEC (R75). -/
def takesOperand (cls : Nibble) : Bool := cls == 0x4 || cls == 0x9 || cls == 0xA

/-- The event of a table word: the event word is the low 12 bits, and an `ev` of more than 12 bits does not exist
(R75). The table gives the operand no bits; DESIGN CHOICE (log 12): the operand of such a word is the empty sequence. -/
def tableEvent (nbits w : Nat) : Option PortEvent :=
  if w % 2 ^ nbits < 2 ^ 12 then
    let ev : EventWord := BitVec.ofNat 12 (w % 2 ^ nbits)
    some ⟨ev, if takesOperand (evClass ev) then some [] else none⟩
  else none

/-- The instruction the decoder reads from a table word, LINE_MAX being that of `Config.params`. With the empty
operand every TX.LINE word is TX.EMPTY: the table's four TX rows share one bit pattern (log 12). -/
def decodeTableWord (nbits w : Nat) : Option Instr :=
  match tableEvent nbits w with
  | some e => (decode Config.params.lineMax e).toOption
  | none => none

end Sys2Proof
end

