-- ==== Sys2Proof/Machine/State.lean ====
section
/-! DEFINITION. The state of FSYNC (10_state.md R20), the records and results it holds, its reset value, and the
reasons a step can stop. -/

namespace Sys2Proof.Machine

/-- `rs_state` (10_state.md R21): no frame in progress, or accumulating bytes of a candidate. -/
inductive RsState where
  | idle
  | collecting
deriving DecidableEq, Repr

/-- `rx_phase` (R27): about to test `term`; about to poll the transport; the receive loop has exited. -/
inductive RxPhase where
  | check
  | poll
  | done
deriving DecidableEq, Repr

/-- `tx_phase` (R27): about to read one operator line; the send loop has ended on `exit`. -/
inductive TxPhase where
  | read
  | done
deriving DecidableEq, Repr

/-- The console records of 43_session.md R151, in the order of their codes. -/
inductive Record where
  | rxValid (payload : Bytes) (declared : Byte) (raw : Bytes)
  | rxCkbad (payload : Bytes) (declared : Byte) (raw : Bytes)
  | rxMalformed (raw : Bytes)
  | rxOverflow (raw : Bytes)
  | txEcho (line frame : Bytes)
  | txInvalid (line : Bytes)
  | txTooLong (length : Nat)
deriving DecidableEq, Repr

/-- The outcome of ENC: a frame, or `raise InvalidPayload(p)` (41_codec.md R103). -/
inductive EncResult where
  | frame (f : Bytes)
  | invalidPayload (p : Bytes)
deriving DecidableEq, Repr

/-- The outcome of DEC: `Decoded`, or `raise MalformedFrame(raw)` (41_codec.md R107). -/
inductive DecResult where
  | decoded (payload : Bytes) (declared : Byte) (valid : Bool)
  | malformedFrame (raw : Bytes)
deriving DecidableEq, Repr

/-- What a unit-operation event answers to the tester (30_encoding.md R80); `none` of HEX.VAL is NOTHEX (R101). -/
inductive UnitResult where
  | hexFmt (digit : Byte)
  | hexVal (value : Option Nibble)
  | enc (r : EncResult)
  | dec (r : DecResult)
deriving DecidableEq, Repr

/-- The state. The fields from `rsState` to `txw` are the tuple of 10_state.md R20; `clen` is the length of `cand`
(R36, log 7). `params` are the parameters of 00_scope.md R6 (log 1). The last four fields are the model's own. -/
structure State where
  /-- The parameters, fixed for a model instance; no step writes them (R33). -/
  params  : Params
  /-- `rs_state` (R21). -/
  rsState : RsState
  /-- `cand[0 ..< clen]` (R22). -/
  cand    : Bytes
  /-- `ck` (R25). -/
  ck      : Byte
  /-- `term` (R26). -/
  term    : Bool
  /-- `fatal` (R28). -/
  fatal   : Bool
  /-- `rx_phase` (R27). -/
  rxPhase : RxPhase
  /-- `tx_phase` (R27). -/
  txPhase : TxPhase
  /-- `con`, oldest record first (R30). -/
  con     : List Record
  /-- `txw`, first byte first (R30). -/
  txw     : Bytes
  /-- The bytes that have reached the wire, failed writes included (20_memory.md R47, log 9). -/
  wire    : Bytes
  /-- How many failed writes have drawn a free value (log 9). -/
  draws   : Nat
  /-- The results of unit operations, oldest first (30_encoding.md R80, log 8). -/
  tester  : List UnitResult
  /-- The events the host offers, next one first: the interleaving and the environment's draws (00_scope.md R11, log 3). -/
  port    : List PortEvent
deriving DecidableEq, Repr

/-- `clen`, the number of valid bytes of `cand` (R23). -/
abbrev State.clen (s : State) : Nat := s.cand.length

/-- The reset state of an instance (10_state.md R35), with `con = []` and `txw = []`: the start of a run
(70_reset_and_hazards.md R211). The model's own fields start empty, DESIGN CHOICE (logs 3, 8, 9). -/
def State.resetWith (p : Params) : State where
  params := p
  rsState := .idle
  cand := []
  ck := 0x00
  term := false
  fatal := false
  rxPhase := .check
  txPhase := .read
  con := []
  txw := []
  wire := []
  draws := 0
  tester := []
  port := []

/-- The state right after reset (R35) of the instance `Config.params` (log 2). -/
def State.reset : State := .resetWith Config.params

/-- Why an offered event is not a step of the current state: `stuck` of 93_implementation_defined.md, by the enabling
table of 43_session.md R150. Safe (log 5): the block has no such step. -/
inductive Fault where
  /-- An event of either agent while `fatal = 1`; raised by every RX and TX event. Safe. -/
  | sessionFatal
  /-- An RX event while `rx_phase` is another phase; raised by every RX event. Safe. -/
  | rxNotAt (needed : RxPhase)
  /-- A TX.LINE while `tx_phase = DONE`; raised by every TX event. Safe. -/
  | txDone
deriving DecidableEq, Repr

/-- What the model gives no meaning. -/
inductive Refusal where
  /-- An instruction whose meaning has not been written; raised by no arm of exec. Safe. -/
  | notModelled (mnemonic : String)
  /-- A word or operand that is not a valid event (30_encoding.md R77); raised by step. Safe (log 6). -/
  | notAnEvent (e : DecodeError)
  /-- A launch without exactly one argument (70_reset_and_hazards.md R212); raised by boot. Safe (log 11). -/
  | launchArguments (given : Nat)
deriving DecidableEq, Repr

end Sys2Proof.Machine
end

