-- ==== Sys2Proof/Machine/Ops.lean ====
section
/-! DEFINITION. The named operations over the state: the primitives of 00_scope.md R10, the enabling of 43_session.md
R150, the one entry into the fatal state (60_exceptions.md R184) and the one way out of it (RESET, R210). -/

namespace Sys2Proof.Machine

/-! The candidate buffer, accessed by RSM only (20_memory.md R41). `CandWrite` at index 0 or `clen` together with the
new `clen` is one operation, since the candidate is held as a sequence of length `clen` (log 7). -/

/-- `CandWrite(0, 0x24); clen <- 1; rs_state <- COLLECTING` (R131). -/
def State.candStart (s : State) : State := { s with cand := [chDollar], rsState := .collecting }

/-- `CandWrite(clen, b); clen <- clen + 1` (R133, R134). -/
def State.candAppend (s : State) (b : Byte) : State := { s with cand := s.cand ++ [b] }

/-- `clen <- 0; rs_state <- IDLE` (R134, R135). -/
def State.candClear (s : State) : State := { s with cand := [], rsState := .idle }

/-- `CandRead(i)` for `i < clen`; no rule reads beyond (10_state.md R36). -/
def State.candRead (s : State) (i : Nat) : Option Byte := s.cand[i]?

/-- The snapshot `cand[0 ..< clen]` (R41). -/
def State.candSnapshot (s : State) : Bytes := s.cand

/-- `clen = CAND_MAX` (R133, R134); never with INF. -/
def State.candFull (s : State) : Bool := reaches s.params.candMax s.clen

/-! Outputs. -/

/-- `Emit(rec)`: append one record to `con` (R10, R151). -/
def State.emit (s : State) (r : Record) : State := { s with con := s.con ++ [r] }

/-- The result of a unit operation goes to the tester, not to `con` (30_encoding.md R80). -/
def State.answer (s : State) (r : UnitResult) : State := { s with tester := s.tester ++ [r] }

/-- `TxWrite(f) = OK`: every byte of `f` reaches the wire, in order, after every earlier one (20_memory.md R47). -/
def State.txWriteOk (s : State) (f : Bytes) : State := { s with txw := s.txw ++ f, wire := s.wire ++ f }

/-- `TxWrite(f) = IOERR`: a prefix of `f` of free length reaches the wire; `txw` is not extended (R47, log 9). -/
def State.txWriteFail (s : State) (f : Bytes) : State :=
  { s with wire := s.wire ++ f.take (Config.wirePrefix s.draws), draws := s.draws + 1 }

/-! Control. -/

/-- `rx_phase <- p` (R10). -/
def State.setRxPhase (s : State) (p : RxPhase) : State := { s with rxPhase := p }

/-- `term <- 1; tx_phase <- DONE` (R163). -/
def State.terminate (s : State) : State := { s with term := true, txPhase := .done }

/-- `ck <- v` (R90, R91). -/
def State.setCk (s : State) (v : Byte) : State := { s with ck := v }

/-- TransportIO, the one error that ends the session: `fatal <- 1`, and nothing else changes. No state is saved and
control goes nowhere (60_exceptions.md R184, R187). -/
def State.transportFail (s : State) : State := { s with fatal := true }

/-- RESET, the only way out of FATAL and CLEAN (70_reset_and_hazards.md R210, 60_exceptions.md R188). `con` and `txw`
are not shortened. The parameters and the model's own fields are left as they are (log 10). -/
def State.resetBlock (s : State) : State :=
  { s with
    rsState := .idle, cand := [], ck := 0x00, term := false, fatal := false, rxPhase := .check, txPhase := .read }

/-- A step of the RX agent to `t`: enabled when `rx_phase = p` and `fatal = 0` (43_session.md R150). -/
def rxStep (p : RxPhase) (s t : State) : Host.Outcome State Fault Refusal :=
  if s.fatal then .fault .sessionFatal
  else if s.rxPhase = p then .next t
  else .fault (.rxNotAt p)

/-- A step of the TX agent to `t`: enabled when `tx_phase = READ` and `fatal = 0` (R150). -/
def txStep (s t : State) : Host.Outcome State Fault Refusal :=
  if s.fatal then .fault .sessionFatal
  else if s.txPhase = .read then .next t
  else .fault .txDone

end Sys2Proof.Machine
end

