-- ==== Sys2Proof/Machine/Checksum.lean ====
section
/-! DEFINITION. CKA: the checksum function, CK.CLR and CK.ACC (40_checksum.md). -/

namespace Sys2Proof.Machine

/-- The XOR fold from 0x00 (40_checksum.md R92). -/
def checksum (s : Bytes) : Byte := s.foldl (fun acc b => acc ^^^ b) 0x00

/-- CK.CLR: `ck <- 0x00` (R90). Always enabled (30_encoding.md R80). -/
def execCkClr (s : State) : Host.Outcome State Fault Refusal := .next (s.setCk 0x00)

/-- CK.ACC b: `ck <- ck xor b` (R91). Always enabled (30_encoding.md R80). -/
def execCkAcc (b : Byte) (s : State) : Host.Outcome State Fault Refusal := .next (s.setCk (s.ck ^^^ b))

end Sys2Proof.Machine
end

