-- ==== Sys2Proof/Machine/Codec.lean ====
section
/-! DEFINITION. The frame codec: HEX.FMT, HEX.VAL, ENC and DEC (41_codec.md), and the structural grammar SWF
(30_encoding.md R68). All four are pure; their events write no state (R80). -/

namespace Sys2Proof.Machine

/-- HEX.FMT: an uppercase hex digit (41_codec.md R100). -/
def hexFmt (n : Nibble) : Byte :=
  if n ≤ 9 then 0x30 + n.setWidth 8 else 0x37 + n.setWidth 8

/-- The hex-digit predicate of DEC (30_encoding.md R62). -/
def isHex (h : HexLower) (c : Byte) : Bool :=
  (decide (0x30 ≤ c) && decide (c ≤ 0x39)) || (decide (0x41 ≤ c) && decide (c ≤ 0x46)) ||
    (decide (h = .accept) && decide (0x61 ≤ c) && decide (c ≤ 0x66))

/-- HEX.VAL: the value of a hex digit; `none` is NOTHEX (41_codec.md R101). -/
def hexVal (h : HexLower) (c : Byte) : Option Nibble :=
  if isHex h c = false then none
  else if c ≤ 0x39 then some ((c - 0x30).setWidth 4)
  else if c ≤ 0x46 then some ((c - 0x37).setWidth 4)
  else some ((c - 0x57).setWidth 4)

/-- `16 * H + L`, zero-extended to 8 bits (30_encoding.md R67). -/
def joinNibbles (hi lo : Nibble) : Byte := 16 * hi.setWidth 8 + lo.setWidth 8

/-- The frame of a payload: delimiter, payload, delimiter, two digits, CR, LF (30_encoding.md R65, R67). -/
def frameOf (p : Bytes) : Bytes :=
  [chDollar] ++ p ++
    [chStar, hexFmt (hiNibble (checksum p)), hexFmt (loNibble (checksum p)), chCr, chLf]

/-- ENC (41_codec.md R103): the whole payload is checked before any output is formed. -/
def enc (p : Bytes) : EncResult :=
  if p.any isReserved then .invalidPayload p else .frame (frameOf p)

/-- `f[1 ..< n-5]`, the payload of a frame of length `n` (41_codec.md R106). -/
def payloadOf (f : Bytes) : Bytes := (f.take (f.length - 5)).drop 1

/-- SWF, structural well-formedness (30_encoding.md R68). -/
def swf (p : Params) (f : Bytes) : Bool :=
  let n := f.length
  decide (6 ≤ n) && f[0]? == some chDollar && f[n - 2]? == some chCr && f[n - 1]? == some chLf &&
    f[n - 5]? == some chStar && (f[n - 4]?).any (isHex p.decHexLower) && (f[n - 3]?).any (isHex p.decHexLower) &&
    (decide (p.decPayloadCheck = .none) || !(payloadOf f).any isReserved)

/-- The nibble of the digit at index `i`. SWF has checked that it is a hex digit (41_codec.md R101), so the default is
not used by DEC. -/
def digitAt (h : HexLower) (f : Bytes) (i : Nat) : Nibble := (f[i]?.bind (hexVal h)).getD 0

/-- `declared` (41_codec.md R106, step 2). -/
def declaredOf (h : HexLower) (f : Bytes) : Byte :=
  joinNibbles (digitAt h f (f.length - 4)) (digitAt h f (f.length - 3))

/-- DEC (41_codec.md R106): structure first, then the checksum verdict. -/
def dec (p : Params) (f : Bytes) : DecResult :=
  if swf p f then
    let d := declaredOf p.decHexLower f
    .decoded (payloadOf f) d (checksum (payloadOf f) == d)
  else .malformedFrame f

/-- HEX.FMT n as an event: its digit goes to the tester (R100, R80). -/
def execHexFmt (n : Nibble) (s : State) : Host.Outcome State Fault Refusal := .next (s.answer (.hexFmt (hexFmt n)))

/-- HEX.VAL c as an event (R101, R80). -/
def execHexVal (c : Byte) (s : State) : Host.Outcome State Fault Refusal :=
  .next (s.answer (.hexVal (hexVal s.params.decHexLower c)))

/-- ENC p as an event (R103, R80). -/
def execEnc (p : Bytes) (s : State) : Host.Outcome State Fault Refusal := .next (s.answer (.enc (enc p)))

/-- DEC f as an event (R106, R80). -/
def execDec (f : Bytes) (s : State) : Host.Outcome State Fault Refusal := .next (s.answer (.dec (dec s.params f)))

end Sys2Proof.Machine
end

