-- ==== Sys2Proof/Machine/Reassembler.lean ====
section
/-! DEFINITION. RSM, the stream reassembler (42_reassembler.md), and the receive steps that feed it one poll outcome
(43_session.md R153-R157). -/

namespace Sys2Proof.Machine

/-- The output of one RSM step (42_reassembler.md R130). -/
inductive RsmOut where
  | nothing
  | frame (f : Bytes)
  | overflow (raw : Bytes)
deriving DecidableEq, Repr

/-- RX.DOLLAR in either state: start or restart the candidate (R131). -/
def rsmDollar (s : State) : State × RsmOut := (s.candStart, .nothing)

/-- The pre-sync noise discard (R132). -/
def rsmDiscard (s : State) : State × RsmOut := (s, .nothing)

/-- Candidate overflow: the byte that does not fit is dropped (R135). -/
def rsmOverflow (s : State) : State × RsmOut := (s.candClear, .overflow s.candSnapshot)

/-- RX.OTHER (R133). -/
def rsmOther (b : Byte) (s : State) : State × RsmOut :=
  match s.rsState with
  | .idle => rsmDiscard s
  | .collecting => if s.candFull then rsmOverflow s else (s.candAppend b, .nothing)

/-- The completion test of R134, after the LF is appended. -/
def rsmComplete (s : State) : State × RsmOut :=
  if s.candRead (s.clen - 2) = some chCr then (s.candClear, .frame s.candSnapshot) else (s, .nothing)

/-- RX.LF (R134). -/
def rsmLf (s : State) : State × RsmOut :=
  match s.rsState with
  | .idle => rsmDiscard s
  | .collecting => if s.candFull then rsmOverflow s else rsmComplete (s.candAppend chLf)

/-- RX.NONE: nothing changes (R136). -/
def rsmNone (s : State) : State × RsmOut := (s, .nothing)

/-- The frame verdict (43_session.md R155). -/
def frameRecord (p : Params) (f : Bytes) : Record :=
  match dec p f with
  | .malformedFrame _ => .rxMalformed f
  | .decoded payload declared true => .rxValid payload declared f
  | .decoded payload declared false => .rxCkbad payload declared f

/-- What the session reports of an RSM output (R154-R156). -/
def State.report (s : State) : RsmOut → State
  | .nothing => s
  | .frame f => s.emit (frameRecord s.params f)
  | .overflow raw => s.emit (.rxOverflow raw)

/-- The end of a poll step that reached RSM: the report, then `rx_phase <- CHECK` (R153, R154). -/
def rxFinish (r : State × RsmOut) : State := (r.1.report r.2).setRxPhase .check

/-- RX.DOLLAR (R131, R154). -/
def execRxDollar (s : State) : Host.Outcome State Fault Refusal := rxStep .poll s (rxFinish (rsmDollar s))

/-- RX.LF (R132, R134, R135, R154). -/
def execRxLf (s : State) : Host.Outcome State Fault Refusal := rxStep .poll s (rxFinish (rsmLf s))

/-- RX.OTHER (R132, R133, R135, R154). -/
def execRxOther (b : Byte) (s : State) : Host.Outcome State Fault Refusal := rxStep .poll s (rxFinish (rsmOther b s))

/-- RX.NONE (R136, R157). -/
def execRxNone (s : State) : Host.Outcome State Fault Refusal := rxStep .poll s (rxFinish (rsmNone s))

end Sys2Proof.Machine
end

