-- ==== Sys2Proof/Machine/Session.lean ====
section
/-! DEFINITION. SES, the session loop: the termination check, the transport failure on read, and the send direction
(43_session.md). -/

namespace Sys2Proof.Machine

/-- RX.CHECK: the only reader of `term` (43_session.md R152). -/
def execRxCheck (s : State) : Host.Outcome State Fault Refusal :=
  rxStep .check s (s.setRxPhase (if s.term then .done else .poll))

/-- RX.IOERR: TransportIO on read; the phase stays POLL (R158). -/
def execRxIoerr (s : State) : Host.Outcome State Fault Refusal := rxStep .poll s s.transportFail

/-- Write a frame: echo after a successful write; a failed one is fatal and has no echo (R166). -/
def writeFrame (w : WriteOutcome) (line frame : Bytes) (s : State) : State :=
  match w with
  | .ok => (s.txWriteOk frame).emit (.txEcho line frame)
  | .ioerr => (s.txWriteFail frame).transportFail

/-- Encode a line; an invalid one is reported and dropped (R165). -/
def sendLine (w : WriteOutcome) (line : Bytes) (s : State) : State :=
  match enc line with
  | .invalidPayload _ => s.emit (.txInvalid line)
  | .frame f => writeFrame w line f s

/-- TX.EMPTY: a no-op; `w` is ignored (R161, R160). -/
def execTxEmpty (_w : WriteOutcome) (s : State) : Host.Outcome State Fault Refusal := txStep s s

/-- TX.EXIT: `term <- 1; tx_phase <- DONE`; `w` is ignored (R163, R160). -/
def execTxExit (_w : WriteOutcome) (s : State) : Host.Outcome State Fault Refusal := txStep s s.terminate

/-- TX.TOOLONG: the line is dropped and its length reported; `w` is ignored (R164, R160). -/
def execTxTooLong (_w : WriteOutcome) (line : Bytes) (s : State) : Host.Outcome State Fault Refusal :=
  txStep s (s.emit (.txTooLong line.length))

/-- TX.SEND (R165, R166). -/
def execTxSend (w : WriteOutcome) (line : Bytes) (s : State) : Host.Outcome State Fault Refusal :=
  txStep s (sendLine w line s)

end Sys2Proof.Machine
end

