-- ==== Sys2Proof/Machine/System.lean ====
section
/-! DEFINITION. RESET and boot (70_reset_and_hazards.md R210-R213). -/

namespace Sys2Proof.Machine

/-- RESET: enabled in every state, FATAL and CLEAN included (R210). -/
def execReset (s : State) : Host.Outcome State Fault Refusal := .next s.resetBlock

/-- The transport's answer to `open(DEVICE_ID)` (R212). -/
inductive OpenOutcome where
  | handle
  | failed
deriving DecidableEq, Repr

/-- The boot sequence (R212): the one argument is DEVICE_ID; both agents start from the reset state when the open
succeeds; a failed open is TransportIO before any step (60_exceptions.md R184); any other launch is refused. -/
def boot (p : Params) (args : List Bytes) (answer : OpenOutcome) : Host.Outcome State Fault Refusal :=
  match args with
  | [device] =>
    let s := State.resetWith { p with deviceId := device }
    match answer with
    | .handle => .next s
    | .failed => .next s.transportFail
  | _ => .refused (.launchArguments args.length)

end Sys2Proof.Machine
end

