-- ==== Sys2Proof/Machine/Dispatch.lean ====
section
/-! DEFINITION. One arm per constructor of Instr, each a direct call of its meaning. -/

namespace Sys2Proof.Machine

def exec (i : Instr) (s : State) : Host.Outcome State Fault Refusal :=
  match i with
  | .rxNone => Sys2Proof.Machine.execRxNone s
  | .rxDollar => Sys2Proof.Machine.execRxDollar s
  | .rxLf => Sys2Proof.Machine.execRxLf s
  | .rxOther b => Sys2Proof.Machine.execRxOther b s
  | .rxIoerr => Sys2Proof.Machine.execRxIoerr s
  | .rxCheck => Sys2Proof.Machine.execRxCheck s
  | .txEmpty w => Sys2Proof.Machine.execTxEmpty w s
  | .txExit w => Sys2Proof.Machine.execTxExit w s
  | .txTooLong w line => Sys2Proof.Machine.execTxTooLong w line s
  | .txSend w line => Sys2Proof.Machine.execTxSend w line s
  | .ckClr => Sys2Proof.Machine.execCkClr s
  | .ckAcc b => Sys2Proof.Machine.execCkAcc b s
  | .hexFmt n => Sys2Proof.Machine.execHexFmt n s
  | .hexVal c => Sys2Proof.Machine.execHexVal c s
  | .enc payload => Sys2Proof.Machine.execEnc payload s
  | .dec frame => Sys2Proof.Machine.execDec frame s
  | .reset => Sys2Proof.Machine.execReset s

end Sys2Proof.Machine
end

