-- ==== Sys2Proof/Machine/Port.lean ====
section
/-! DEFINITION. The input port: taking the next offered event, offering one, and event scripts (30_encoding.md R75,
R78, R79). -/

namespace Sys2Proof.Machine

/-- Take the next offered event; none when the host offers nothing. -/
def State.takeEvent (s : State) : Option (PortEvent × State) :=
  match s.port with
  | [] => none
  | e :: rest => some (e, { s with port := rest })

/-- Offer `e` as the next event in a state whose agent is at the phase that accepts its class (43_session.md R150): a
poll outcome exists only at POLL, RX.CHECK only at CHECK, TX.LINE only at READ, and none of them once the session is
fatal. RESET and the unit operations need nothing (log 12). -/
def State.present (s : State) (e : PortEvent) : State :=
  let t := { s with port := e :: s.port }
  match (evClass e.ev).toNat with
  | 0x0 | 0x1 | 0x2 => { t with fatal := false, rxPhase := .poll }
  | 0x3 => { t with fatal := false, rxPhase := .check }
  | 0x4 => { t with fatal := false, txPhase := .read }
  | _ => t

/-- One line of an event script (R78), or a pseudo-instruction (R79). -/
inductive ScriptLine where
  | rxCheck
  | rxNone
  | rxIoerr
  | rxByte (b : Byte)
  | rxDollar
  | rxLf
  | txLine (text : Bytes) (w : WriteOutcome)
  | ckClr
  | ckAcc (b : Byte)
  | hexFmt (n : Nibble)
  | hexVal (c : Byte)
  | enc (text : Bytes)
  | dec (text : Bytes)
  | reset
  | rxFeed (s : Bytes)
  | rxIdle
  | ckSum (s : Bytes)
deriving DecidableEq, Repr

/-- The event of RX.CHECK, `0x300`. -/
def evRxCheck : PortEvent := ⟨evWord 0x3 0, none⟩

/-- The event of `RX.BYTE b`, `0x100 | b`. -/
def evRxByte (b : Byte) : PortEvent := ⟨evWord 0x1 b, none⟩

/-- `RX.FEED s`: for each byte, RX.CHECK then RX.BYTE (R79). -/
def rxFeed (s : Bytes) : List PortEvent := s.flatMap fun b => [evRxCheck, evRxByte b]

/-- `CK.SUM s`: CK.CLR, then CK.ACC of each byte (R79). -/
def ckSum (s : Bytes) : List PortEvent := ⟨evWord 0x5 0, none⟩ :: s.map fun b => ⟨evWord 0x6 b, none⟩

/-- The events a script line stands for (R78, R79). -/
def ScriptLine.events : ScriptLine → List PortEvent
  | .rxCheck => [evRxCheck]
  | .rxNone => [⟨evWord 0x0 0, none⟩]
  | .rxIoerr => [⟨evWord 0x2 0, none⟩]
  | .rxByte b => [evRxByte b]
  | .rxDollar => [evRxByte chDollar]
  | .rxLf => [evRxByte chLf]
  | .txLine text w => [⟨evWord 0x4 (writeData w), some text⟩]
  | .ckClr => [⟨evWord 0x5 0, none⟩]
  | .ckAcc b => [⟨evWord 0x6 b, none⟩]
  | .hexFmt n => [⟨evWord 0x7 (n.setWidth 8), none⟩]
  | .hexVal c => [⟨evWord 0x8 c, none⟩]
  | .enc text => [⟨evWord 0x9 0, some text⟩]
  | .dec text => [⟨evWord 0xA 0, some text⟩]
  | .reset => [⟨evWord 0xF 0, none⟩]
  | .rxFeed s => Sys2Proof.Machine.rxFeed s
  | .rxIdle => [evRxCheck, ⟨evWord 0x0 0, none⟩]
  | .ckSum s => Sys2Proof.Machine.ckSum s

/-- The events of a script, in interleaving order (R78). -/
def scriptEvents (script : List ScriptLine) : List PortEvent := script.flatMap ScriptLine.events

end Sys2Proof.Machine
end

