-- ==== Sys2Proof/Machine/Step.lean ====
section
/-! DEFINITION. One step: the next offered event, decoded and executed. -/

namespace Sys2Proof.Machine

/-- One atomic step (00_scope.md R11). The next offered event is taken, decoded (30_encoding.md R76) and executed; a
word that is no event is refused (R77). When nothing is offered the agents wait, their state unchanged
(60_exceptions.md R197; DESIGN CHOICE, log 4). -/
def step (s : State) : Host.Outcome State Fault Refusal :=
  match s.takeEvent with
  | none => .next s
  | some (e, t) =>
    match decode s.params.lineMax e with
    | .error r => .refused (.notAnEvent r)
    | .ok i => exec i t

/-- `s` with a table word offered as the next event, and the agent it belongs to at the phase that accepts it (log 12). -/
def State.withFetchWord (s : State) (nbits w : Nat) : State :=
  match tableEvent nbits w with
  | some e => s.present e
  | none => s

end Sys2Proof.Machine
end

