-- ==== Sys2Proof/Machine/Flags.lean ====
section
/-! DEFINITION. What is a function of the state and not stored: the session status, the exit code, the codes of errors
and records, the bit encodings of the enumerations. -/

namespace Sys2Proof.Machine

/-- The session status (10_state.md R29). -/
inductive Status where
  | running
  | clean
  | fatal
deriving DecidableEq, Repr

/-- FATAL before CLEAN (R29, 60_exceptions.md R189 (d)). -/
def State.status (s : State) : Status :=
  if s.fatal then .fatal
  else if s.rxPhase = .done ∧ s.txPhase = .done then .clean
  else .running

/-- The exit status of a run that has ended: 0 for CLEAN, FATAL_EXIT_CODE for FATAL (43_session.md R168). -/
def State.exitCode (s : State) : Option Int :=
  match s.status with
  | .running => none
  | .clean => some 0
  | .fatal => some s.params.fatalExitCode

/-- The observable result of a run (R168). -/
structure RunResult where
  con  : List Record
  txw  : Bytes
  exit : Int
deriving DecidableEq, Repr

/-- The triple (`con`, `txw`, exit status), once the run has ended (R168). -/
def State.result (s : State) : Option RunResult :=
  s.exitCode.map fun c => ⟨s.con, s.txw, c⟩

/-- The error and outcome kinds of 60_exceptions.md R180. -/
inductive ErrorKind where
  | none
  | invalidPayload
  | malformedFrame
  | checksumMismatch
  | transportIO
  | candidateOverflow
  | lineTooLong
deriving DecidableEq, Repr

/-- The numeric codes of R180. -/
def ErrorKind.code : ErrorKind → Nat
  | .none => 0
  | .invalidPayload => 1
  | .malformedFrame => 2
  | .checksumMismatch => 3
  | .transportIO => 4
  | .candidateOverflow => 5
  | .lineTooLong => 6

/-- The record codes of 43_session.md R151. -/
def Record.code : Record → Nat
  | .rxValid _ _ _ => 1
  | .rxCkbad _ _ _ => 2
  | .rxMalformed _ => 3
  | .rxOverflow _ => 4
  | .txEcho _ _ => 5
  | .txInvalid _ => 6
  | .txTooLong _ => 7

/-- The error a record reports (R180, column "handling"). TransportIO has no record (R184). -/
def Record.error : Record → ErrorKind
  | .rxValid _ _ _ => .none
  | .rxCkbad _ _ _ => .checksumMismatch
  | .rxMalformed _ => .malformedFrame
  | .rxOverflow _ => .candidateOverflow
  | .txEcho _ _ => .none
  | .txInvalid _ => .invalidPayload
  | .txTooLong _ => .lineTooLong

/-- IDLE = 0, COLLECTING = 1 (10_state.md R20). -/
def RsState.bits : RsState → BitVec 1
  | .idle => 0
  | .collecting => 1

/-- CHECK = 0, POLL = 1, DONE = 2; 3 unused (R20). -/
def RxPhase.bits : RxPhase → BitVec 2
  | .check => 0
  | .poll => 1
  | .done => 2

/-- READ = 0, DONE = 1 (R20). -/
def TxPhase.bits : TxPhase → BitVec 1
  | .read => 0
  | .done => 1

/-- The bits a realisation needs for `clen`, `ceil(log2(CAND_MAX+1))`; none is enough for INF (R23). -/
def Params.clenBits (p : Params) : Option Nat :=
  match p.candMax with
  | .fin n => some (Nat.clog 2 (n + 1))
  | .inf => none

end Sys2Proof.Machine
end

