-- ==== Sys2Proof/Safety.lean ====
section
/-! DEFINITION. What counts as a good state and a good run of FSYNC, in the terms the claims use. -/

namespace Sys2Proof.Machine

/-- The reassembler invariant (10_state.md R24), with (a) read through `clen`, the length of `cand`. -/
structure State.RsmInv (s : State) : Prop where
  /-- (a) -/
  idle_iff : s.rsState = .idle ↔ s.clen = 0
  /-- (b), first half: the candidate fits. -/
  fits : exceeds s.params.candMax s.clen = false
  /-- (b), second half: it starts with `$`. -/
  starts : s.rsState = .collecting → s.candRead 0 = some chDollar
  /-- (c) -/
  noInnerDollar : ∀ i, 1 ≤ i → s.candRead i ≠ some chDollar
  /-- (d) -/
  noInnerCrlf : ∀ i, s.candRead i = some chCr → s.candRead (i + 1) ≠ some chLf

/-- The control invariant of the session: `term` is set exactly when the send loop has ended on `exit`, and the
receive loop ends only after `term` is set (43_session.md R163, R152, R168). -/
structure State.SessionInv (s : State) : Prop where
  term_iff : s.term = true ↔ s.txPhase = .done
  rxDone : s.rxPhase = .done → s.term = true

/-- The invariant of every state a run reaches. -/
structure State.Inv (s : State) : Prop where
  params : s.params.wf = true
  rsm : s.RsmInv
  session : s.SessionInv

/-- A state that is not at the block's specified fatal end (93_implementation_defined.md). -/
def State.notFatal (s : State) : Prop := s.status ≠ .fatal

/-- No CR LF pair anywhere in `x`. -/
def noCrlfPair (x : Bytes) : Prop := ∀ j, x[j]? = some chCr → x[j + 1]? ≠ some chLf

/-- The two agents (43_session.md R150). -/
inductive Agent where
  | rx
  | tx
deriving DecidableEq, Repr

/-- The agent of each event class (30_encoding.md R76); `none` for RESET and the unit operations (R150). -/
def agentOf : Instr → Option Agent
  | .rxNone | .rxDollar | .rxLf | .rxOther _ | .rxIoerr | .rxCheck => some .rx
  | .txEmpty _ | .txExit _ | .txTooLong _ _ | .txSend _ _ => some .tx
  | .ckClr | .ckAcc _ | .hexFmt _ | .hexVal _ | .enc _ | .dec _ | .reset => none

/-- The unit-operation events, classes 0x5 to 0xA (30_encoding.md R76, R80). -/
def isUnitOp : Instr → Bool
  | .ckClr | .ckAcc _ | .hexFmt _ | .hexVal _ | .enc _ | .dec _ => true
  | .rxNone | .rxDollar | .rxLf | .rxOther _ | .rxIoerr | .rxCheck => false
  | .txEmpty _ | .txExit _ | .txTooLong _ _ | .txSend _ _ | .reset => false

/-- A poll step: RX.NONE, RX.BYTE or RX.IOERR (43_session.md R153). -/
def isPoll : Instr → Bool
  | .rxNone | .rxDollar | .rxLf | .rxOther _ | .rxIoerr => true
  | .rxCheck | .txEmpty _ | .txExit _ | .txTooLong _ _ | .txSend _ _ => false
  | .ckClr | .ckAcc _ | .hexFmt _ | .hexVal _ | .enc _ | .dec _ | .reset => false

/-- The enabling table of 43_session.md R150. -/
def enabled (i : Instr) (s : State) : Prop :=
  match agentOf i with
  | some .rx => s.fatal = false ∧ s.rxPhase = (if isPoll i then .poll else .check)
  | some .tx => s.fatal = false ∧ s.txPhase = .read
  | none => True

end Sys2Proof.Machine
end

