-- ==== Sys2Proof/Machine/Progress.lean ====
section
/-! DEFINITION. Endless runs and the progress assumption of 43_session.md R167. The state stays plain data: a run is a
sequence of states, and what the host offers before each step is a sequence of events beside it. -/

namespace Sys2Proof.Machine

/-- The host offers further events, after those it has offered already (43_session.md R169). -/
def State.offer (s : State) (es : List PortEvent) : State := { s with port := s.port ++ es }

/-- The instruction the next step takes; none when nothing is offered or the next event is not valid (30_encoding.md
R77). -/
def State.taken (s : State) : Option Instr :=
  match s.takeEvent with
  | none => none
  | some (e, _) => (decode s.params.lineMax e).toOption

/-- The RX agent has an enabled step: `fatal = 0` and its phase is CHECK or POLL (43_session.md R150). -/
def State.rxHasStep (s : State) : Bool := !s.fatal && decide (s.rxPhase ≠ .done)

/-- A run without end: before its n-th step the host offers `offers n`, and each step answers the next state. The offers
are the interleaving and the draws (00_scope.md R11), so every run of the block that does not end is one of these, for
some offers (log 13). -/
def EndlessRun (offers : Nat → List PortEvent) (run : Nat → State) : Prop :=
  ∀ n, step ((run n).offer (offers n)) = .next (run (n + 1))

/-- The instruction the n-th step of a run takes. -/
def takenAt (offers : Nat → List PortEvent) (run : Nat → State) (n : Nat) : Option Instr :=
  ((run n).offer (offers n)).taken

/-- The n-th step of a run is a step of the RX agent. -/
def rxStepAt (offers : Nat → List PortEvent) (run : Nat → State) (n : Nat) : Prop :=
  ∃ i, takenAt offers run n = some i ∧ agentOf i = some .rx

/-- "Whenever the RX agent has an enabled step, some RX step is eventually taken" (43_session.md R167), unless the agent
loses its step before that: a failed write of the TX agent ends the run, and then no agent has a step (R166, R150). It is
the only fairness assumption. Nothing is assumed of the TX agent. -/
def RxFair (offers : Nat → List PortEvent) (run : Nat → State) : Prop :=
  ∀ n, (run n).rxHasStep = true → ∃ m, n ≤ m ∧ (rxStepAt offers run m ∨ (run m).rxHasStep = false)

/-- A run of the block as R167 has it: endless and fair to the RX agent. -/
structure ProgressRun (offers : Nat → List PortEvent) (run : Nat → State) : Prop where
  steps : EndlessRun offers run
  rxFair : RxFair offers run

/-- The transport failures: a failed read, and a line whose write fails (60_exceptions.md R184). -/
def isTransportFailure : Instr → Bool
  | .rxIoerr | .txSend .ioerr _ => true
  | .txSend .ok _ | .rxNone | .rxDollar | .rxLf | .rxOther _ | .rxCheck => false
  | .txEmpty _ | .txExit _ | .txTooLong _ _ => false
  | .ckClr | .ckAcc _ | .hexFmt _ | .hexVal _ | .enc _ | .dec _ | .reset => false

/-- The line `exit` is typed (43_session.md R163). -/
def isExit : Instr → Bool
  | .txExit _ => true
  | .rxNone | .rxDollar | .rxLf | .rxOther _ | .rxIoerr | .rxCheck => false
  | .txEmpty _ | .txTooLong _ _ | .txSend _ _ => false
  | .ckClr | .ckAcc _ | .hexFmt _ | .hexVal _ | .enc _ | .dec _ | .reset => false

end Sys2Proof.Machine
end

