-- ==== Sys2Proof/Certificates/Slice0/Obligations.lean ====
section
/-! DEFINITION. The statements for the provers, in the order of OBLIGATIONS.json. Each docstring names the rule of spec/
it formalises. A clause that masks `tester`, `wire` or `draws` leaves out the model's own fields (logs 8, 9). -/

open Sys2Proof Sys2Proof.Machine

/-! CKA (40_checksum.md). -/

/-- R90: CK.CLR in every state, with its encoding. -/
def Obligations.CkClrClearsAccumulator : Prop :=
  ∀ (s : State) (m : Bound),
    exec .ckClr s = .next { s with ck := 0x00 } ∧
    encode .ckClr = ⟨0x500, none⟩ ∧ decode m ⟨0x500, none⟩ = .ok .ckClr

/-- R91: CK.ACC in every state, with its encoding and corner cases. -/
def Obligations.CkAccXorsByte : Prop :=
  ∀ (s : State) (b : Byte) (m : Bound),
    exec (.ckAcc b) s = .next { s with ck := s.ck ^^^ b } ∧
    encode (.ckAcc b) = ⟨0x600 ||| b.setWidth 12, none⟩ ∧
    decode m ⟨0x600 ||| b.setWidth 12, none⟩ = .ok (.ckAcc b) ∧
    exec (.ckAcc 0x00) s = .next s ∧
    exec (.ckAcc s.ck) s = .next { s with ck := 0x00 } ∧
    run 2 { s with port := [encode (.ckAcc b), encode (.ckAcc b)] } = .next { s with port := [] }

/-- R92: the checksum is the fold of its pseudocode, and it is what CK.SUM leaves in `ck`; ENC and DEC never touch `ck`,
as unit operations or inside the steps of the two agents. -/
def Obligations.CkSumComputesChecksum : Prop :=
  checksum [] = 0x00 ∧ (∀ (x : Bytes) (b : Byte), checksum (x ++ [b]) = checksum x ^^^ b) ∧
  (∀ (s : State) (x : Bytes) (rest : List PortEvent),
    run (x.length + 1) { s with port := ckSum x ++ rest } =
      .next { s with ck := checksum x, port := rest }) ∧
  (∀ (s : State) (x : Bytes), ∃ t u : State,
    exec (.enc x) s = .next t ∧ t.ck = s.ck ∧ exec (.dec x) s = .next u ∧ u.ck = s.ck) ∧
  (∀ (i : Instr) (s t : State), agentOf i ≠ none → exec i s = .next t → t.ck = s.ck)

/-- R93 (a) to (f): the laws of the checksum. -/
def Obligations.ChecksumLaws : Prop :=
  checksum [] = 0x00 ∧
  (∀ x y : Bytes, checksum (x ++ y) = checksum x ^^^ checksum y) ∧
  (∀ x y : Bytes, x.Perm y → checksum x = checksum y) ∧
  (∀ x : Bytes, checksum (x ++ x) = 0x00) ∧
  (∀ x : Bytes, (∀ b, x.count b % 2 = 0) → checksum x = 0x00) ∧
  (∀ (x : Bytes) (i : Nat) (b : Byte) (k : Nat), x[i]? = some b → k < 8 →
    checksum (x.set i (b ^^^ (1#8 <<< k))) = checksum x ^^^ (1#8 <<< k) ∧
    checksum (x.set i (b ^^^ (1#8 <<< k))) ≠ checksum x) ∧
  (∀ (x : Bytes) (i j : Nat) (b c : Byte) (k : Nat), i ≠ j → x[i]? = some b → x[j]? = some c → k < 8 →
    checksum ((x.set i (b ^^^ (1#8 <<< k))).set j (c ^^^ (1#8 <<< k))) = checksum x)

/-- R95: the worked checksum of `"LED1"`, and the values under the three other delimiter scopes. -/
def Obligations.WorkedChecksumOfLed1 : Prop :=
  (0x00 : Byte) ^^^ 0x4C = 0x4C ∧ (0x4C : Byte) ^^^ 0x45 = 0x09 ∧ (0x09 : Byte) ^^^ 0x44 = 0x4D ∧
  (0x4D : Byte) ^^^ 0x31 = 0x7C ∧
  checksum [0x4C, 0x45, 0x44, 0x31] = 0x7C ∧
  checksum [0x24, 0x4C, 0x45, 0x44, 0x31] = 0x58 ∧
  checksum [0x4C, 0x45, 0x44, 0x31, 0x2A] = 0x56 ∧
  checksum [0x24, 0x4C, 0x45, 0x44, 0x31, 0x2A] = 0x72

/-! The hex digits (41_codec.md section 1). -/

/-- R100: HEX.FMT, its value, its encoding, the refused words and the frame of its event. -/
def Obligations.HexFmtGivesUppercaseDigit : Prop :=
  ∀ (n : Nibble) (s : State) (m : Bound),
    (n.toNat ≤ 9 → (hexFmt n).toNat = 0x30 + n.toNat) ∧
    (9 < n.toNat → (hexFmt n).toNat = 0x37 + n.toNat) ∧
    encode (.hexFmt n) = ⟨0x700 ||| n.setWidth 12, none⟩ ∧
    decode m ⟨0x700 ||| n.setWidth 12, none⟩ = .ok (.hexFmt n) ∧
    (∀ d : Byte, 16 ≤ d.toNat → ∃ e, decode m ⟨0x700 ||| d.setWidth 12, none⟩ = .error e) ∧
    (∃ t : State, exec (.hexFmt n) s = .next t ∧ { t with tester := s.tester } = s)

/-- R62 and R101: the hex-digit predicate and HEX.VAL, range by range, its encoding and the frame of its event. -/
def Obligations.HexValParsesDigit : Prop :=
  ∀ (c : Byte) (h : HexLower) (s : State) (m : Bound),
    (isHex h c = true ↔ (0x30 ≤ c.toNat ∧ c.toNat ≤ 0x39) ∨ (0x41 ≤ c.toNat ∧ c.toNat ≤ 0x46) ∨
      (h = .accept ∧ 0x61 ≤ c.toNat ∧ c.toNat ≤ 0x66)) ∧
    (isHex h c = false → hexVal h c = none) ∧
    (0x30 ≤ c.toNat → c.toNat ≤ 0x39 → (hexVal h c).map BitVec.toNat = some (c.toNat - 0x30)) ∧
    (0x41 ≤ c.toNat → c.toNat ≤ 0x46 → (hexVal h c).map BitVec.toNat = some (c.toNat - 0x37)) ∧
    (h = .accept → 0x61 ≤ c.toNat → c.toNat ≤ 0x66 → (hexVal h c).map BitVec.toNat = some (c.toNat - 0x57)) ∧
    encode (.hexVal c) = ⟨0x800 ||| c.setWidth 12, none⟩ ∧
    decode m ⟨0x800 ||| c.setWidth 12, none⟩ = .ok (.hexVal c) ∧
    (∃ t : State, exec (.hexVal c) s = .next t ∧ { t with tester := s.tester } = s)

/-- R102: the hex laws, under either value of DEC_HEX_LOWER. -/
def Obligations.HexDigitRoundTrip : Prop :=
  (∀ (h : HexLower) (n : Nibble), isHex h (hexFmt n) = true ∧ hexVal h (hexFmt n) = some n) ∧
  (∀ (h : HexLower) (c : Byte), ∃ a b : Nibble,
    hexVal h (hexFmt (c.extractLsb' 4 4)) = some a ∧ hexVal h (hexFmt (c.extractLsb' 0 4)) = some b ∧
    16 * a.toNat + b.toNat = c.toNat)

/-! ENC and DEC (41_codec.md sections 2 and 3). -/

/-- R103: ENC, its two outcomes, its encoding and the frame of its event. -/
def Obligations.EncFramesOrRefusesPayload : Prop :=
  ∀ (p : Bytes) (s : State) (m : Bound),
    ((∃ b ∈ p, b = 0x24 ∨ b = 0x2A ∨ b = 0x0D ∨ b = 0x0A) → enc p = .invalidPayload p) ∧
    ((∀ b ∈ p, b ≠ 0x24 ∧ b ≠ 0x2A ∧ b ≠ 0x0D ∧ b ≠ 0x0A) →
      enc p = .frame ([0x24] ++ p ++ [0x2A, hexFmt ((checksum p).extractLsb' 4 4),
        hexFmt ((checksum p).extractLsb' 0 4), 0x0D, 0x0A])) ∧
    encode (.enc p) = ⟨0x900, some p⟩ ∧ decode m ⟨0x900, some p⟩ = .ok (.enc p) ∧
    (∃ t : State, exec (.enc p) s = .next t ∧ { t with tester := s.tester } = s)

/-- R104, but for its last sentence (see `FedFrameIsReportedValid`): the shape of ENC's output. -/
def Obligations.EncOutputShape : Prop :=
  ∀ (p f : Bytes), enc p = .frame f →
    f.length = p.length + 6 ∧
    (∀ q : Params, swf q f = true) ∧
    (f.drop 1).take p.length = p ∧
    (∀ i : Nat, f[i]? = some 0x24 ↔ i = 0) ∧
    (∀ i : Nat, (f[i]? = some 0x0D ∧ f[i + 1]? = some 0x0A) ↔ i + 2 = f.length)

/-- R68, R106 and R107: DEC decodes exactly the SWF sequences, to these results, and is MalformedFrame of the whole
input otherwise; its encoding and the frame of its event. -/
def Obligations.DecDecodesExactlySwf : Prop :=
  ∀ (q : Params) (f : Bytes) (s : State) (m : Bound),
    (∀ (p : Bytes) (d : Byte) (v : Bool), dec q f = .decoded p d v ↔
      ∃ (hi lo : Byte) (a b : Nibble),
        f = [0x24] ++ p ++ [0x2A, hi, lo, 0x0D, 0x0A] ∧
        hexVal q.decHexLower hi = some a ∧ hexVal q.decHexLower lo = some b ∧
        (q.decPayloadCheck = .reserved → ∀ x ∈ p, x ≠ 0x24 ∧ x ≠ 0x2A ∧ x ≠ 0x0D ∧ x ≠ 0x0A) ∧
        d.toNat = 16 * a.toNat + b.toNat ∧ (v = true ↔ checksum p = d)) ∧
    ((∀ (p : Bytes) (d : Byte) (v : Bool), dec q f ≠ .decoded p d v) → dec q f = .malformedFrame f) ∧
    encode (.dec f) = ⟨0xA00, some f⟩ ∧ decode m ⟨0xA00, some f⟩ = .ok (.dec f) ∧
    (∃ t : State, exec (.dec f) s = .next t ∧ { t with tester := s.tester } = s)

/-- R109: the round trip, under every value of the parameters. -/
def Obligations.DecOfEncRoundTrip : Prop :=
  ∀ (q : Params) (p : Bytes), (∀ b ∈ p, b ≠ 0x24 ∧ b ≠ 0x2A ∧ b ≠ 0x0D ∧ b ≠ 0x0A) →
    ∃ f, enc p = .frame f ∧ dec q f = .decoded p (checksum p) true

/-- R110, its two numbered cases: one inverted bit in a payload byte of a valid frame. -/
def Obligations.SingleBitFlipIsDetected : Prop :=
  ∀ (q : Params) (f p : Bytes) (d b : Byte) (i k : Nat),
    dec q f = .decoded p d true → 1 ≤ i → i + 6 ≤ f.length → f[i]? = some b → k < 8 →
    (q.decPayloadCheck = .none →
      dec q (f.set i (b ^^^ (1#8 <<< k))) = .decoded (p.set (i - 1) (b ^^^ (1#8 <<< k))) d false) ∧
    (q.decPayloadCheck = .reserved →
      (isReserved (b ^^^ (1#8 <<< k)) = true →
        dec q (f.set i (b ^^^ (1#8 <<< k))) = .malformedFrame (f.set i (b ^^^ (1#8 <<< k)))) ∧
      (isReserved (b ^^^ (1#8 <<< k)) = false →
        dec q (f.set i (b ^^^ (1#8 <<< k))) = .decoded (p.set (i - 1) (b ^^^ (1#8 <<< k))) d false))

/-- R112 (informative): the checksum of the payload from the running XOR of every byte after the `$`. -/
def Obligations.RunningXorGivesPayloadChecksum : Prop :=
  ∀ (q : Params) (f p : Bytes) (d hi lo : Byte) (v : Bool),
    dec q f = .decoded p d v → f[f.length - 4]? = some hi → f[f.length - 3]? = some lo →
    checksum p = checksum (f.drop 1) ^^^ hi ^^^ lo ^^^ 0x2D

/-- R111: `"$AB\r\n"` is malformed and not a mismatch; `"$LED1*FF\r\n"` is a mismatch and not malformed. -/
def Obligations.MalformedIsNotMismatch : Prop :=
  ∀ q : Params,
    dec q [0x24, 0x41, 0x42, 0x0D, 0x0A] = .malformedFrame [0x24, 0x41, 0x42, 0x0D, 0x0A] ∧
    dec q [0x24, 0x4C, 0x45, 0x44, 0x31, 0x2A, 0x46, 0x46, 0x0D, 0x0A] =
      .decoded [0x4C, 0x45, 0x44, 0x31] 0xFF false

/-- MODEL'S CHOICE (log 8): the result of each unit operation is appended to `tester`, and nothing else changes. -/
def Obligations.UnitResultsReachTester : Prop :=
  ∀ (s : State) (n : Nibble) (c : Byte) (x : Bytes),
    exec (.hexFmt n) s = .next { s with tester := s.tester ++ [.hexFmt (hexFmt n)] } ∧
    exec (.hexVal c) s = .next { s with tester := s.tester ++ [.hexVal (hexVal s.params.decHexLower c)] } ∧
    exec (.enc x) s = .next { s with tester := s.tester ++ [.enc (enc x)] } ∧
    exec (.dec x) s = .next { s with tester := s.tester ++ [.dec (dec s.params x)] }

/-! RSM and the receive direction (42_reassembler.md, 43_session.md section 2). -/

/-- R131: RX.DOLLAR starts or restarts the candidate in either state, full buffers included. -/
def Obligations.DollarStartsOrRestartsCandidate : Prop :=
  ∀ (s : State) (m : Bound), s.fatal = false → s.rxPhase = .poll →
    exec .rxDollar s = .next { s with cand := [0x24], rsState := .collecting, rxPhase := .check } ∧
    encode .rxDollar = ⟨0x124, none⟩ ∧ decode m ⟨0x124, none⟩ = .ok .rxDollar

/-- R132: in IDLE every byte but `$` is discarded without a record. -/
def Obligations.IdleByteIsDiscarded : Prop :=
  ∀ (s : State) (b : Byte) (m : Bound), s.fatal = false → s.rxPhase = .poll → s.rsState = .idle → b ≠ 0x24 →
    ∃ i, decode m ⟨0x100 ||| b.setWidth 12, none⟩ = .ok i ∧ exec i s = .next { s with rxPhase := .check }

/-- R133: RX.OTHER in IDLE, at a full buffer, and appending; its encoding. -/
def Obligations.OtherByteIsAppended : Prop :=
  ∀ (s : State) (b : Byte) (m : Bound), s.fatal = false → s.rxPhase = .poll → b ≠ 0x24 → b ≠ 0x0A →
    encode (.rxOther b) = ⟨0x100 ||| b.setWidth 12, none⟩ ∧
    decode m ⟨0x100 ||| b.setWidth 12, none⟩ = .ok (.rxOther b) ∧
    (s.rsState = .idle → exec (.rxOther b) s = .next { s with rxPhase := .check }) ∧
    (s.rsState = .collecting → s.params.candMax = .fin s.cand.length →
      exec (.rxOther b) s = .next { s with
        cand := [], rsState := .idle, rxPhase := .check, con := s.con ++ [.rxOverflow s.cand] }) ∧
    (s.rsState = .collecting → s.params.candMax ≠ .fin s.cand.length →
      exec (.rxOther b) s = .next { s with cand := s.cand ++ [b], rxPhase := .check })

/-- R134 and R155: RX.LF in IDLE, at a full buffer, completing a frame (with its verdict), and appending. -/
def Obligations.LineFeedCompletesOrAppends : Prop :=
  ∀ (s : State) (m : Bound), s.fatal = false → s.rxPhase = .poll →
    encode .rxLf = ⟨0x10A, none⟩ ∧ decode m ⟨0x10A, none⟩ = .ok .rxLf ∧
    (s.rsState = .idle → exec .rxLf s = .next { s with rxPhase := .check }) ∧
    (s.rsState = .collecting → s.params.candMax = .fin s.cand.length →
      exec .rxLf s = .next { s with
        cand := [], rsState := .idle, rxPhase := .check, con := s.con ++ [.rxOverflow s.cand] }) ∧
    (s.rsState = .collecting → s.params.candMax ≠ .fin s.cand.length → s.cand.getLast? ≠ some 0x0D →
      exec .rxLf s = .next { s with cand := s.cand ++ [0x0A], rxPhase := .check }) ∧
    (s.rsState = .collecting → s.params.candMax ≠ .fin s.cand.length → s.cand.getLast? = some 0x0D →
      ∃ r, exec .rxLf s = .next { s with
          cand := [], rsState := .idle, rxPhase := .check, con := s.con ++ [r] } ∧
        (dec s.params (s.cand ++ [0x0A]) = .malformedFrame (s.cand ++ [0x0A]) → r = .rxMalformed (s.cand ++ [0x0A])) ∧
        (∀ p d, dec s.params (s.cand ++ [0x0A]) = .decoded p d true → r = .rxValid p d (s.cand ++ [0x0A])) ∧
        (∀ p d, dec s.params (s.cand ++ [0x0A]) = .decoded p d false → r = .rxCkbad p d (s.cand ++ [0x0A])))

/-- R135, R156 and R185: any byte but `$` at a full buffer reports the candidate, drops the byte and goes to IDLE. -/
def Obligations.FullCandidateOverflows : Prop :=
  ∀ (s : State) (b : Byte) (m : Bound), s.fatal = false → s.rxPhase = .poll → s.rsState = .collecting →
    s.params.candMax = .fin s.cand.length → b ≠ 0x24 →
    ∃ i, decode m ⟨0x100 ||| b.setWidth 12, none⟩ = .ok i ∧
      exec i s = .next { s with
        cand := [], rsState := .idle, rxPhase := .check, con := s.con ++ [.rxOverflow s.cand] }

/-- R136 and R157: an empty poll changes nothing but the phase; after `exit` it lets RX.CHECK end the loop. -/
def Obligations.EmptyPollOnlyMovesPhase : Prop :=
  ∀ (s : State) (m : Bound), s.fatal = false → s.rxPhase = .poll →
    exec .rxNone s = .next { s with rxPhase := .check } ∧
    encode .rxNone = ⟨0x000, none⟩ ∧ decode m ⟨0x000, none⟩ = .ok .rxNone ∧
    (s.term = true → exec .rxCheck { s with rxPhase := .check } = .next { s with rxPhase := .done })

/-- R158: a failed read is fatal, emits no record and leaves everything else as it was. -/
def Obligations.ReadFailureIsFatal : Prop :=
  ∀ (s : State) (m : Bound), s.fatal = false → s.rxPhase = .poll →
    exec .rxIoerr s = .next { s with fatal := true } ∧
    ({ s with fatal := true } : State).status = .fatal ∧
    encode .rxIoerr = ⟨0x200, none⟩ ∧ decode m ⟨0x200, none⟩ = .ok .rxIoerr

/-- R152: RX.CHECK; in every state no other instruction reads `term`, and a poll step already enabled when `term` is
set still runs. -/
def Obligations.CheckTestsTerm : Prop :=
  ∀ (s : State) (m : Bound),
    (s.fatal = false → s.rxPhase = .check → s.term = true → exec .rxCheck s = .next { s with rxPhase := .done }) ∧
    (s.fatal = false → s.rxPhase = .check → s.term = false → exec .rxCheck s = .next { s with rxPhase := .poll }) ∧
    encode .rxCheck = ⟨0x300, none⟩ ∧ decode m ⟨0x300, none⟩ = .ok .rxCheck ∧
    (∀ (i : Instr) (t : State) (v : Bool), i ≠ .rxCheck → exec i s = .next t →
      ∃ t' : State, exec i { s with term := v } = .next t' ∧ { t' with term := t.term } = t) ∧
    (∀ i : Instr, isPoll i = true → s.fatal = false → s.rxPhase = .poll → s.term = true → ∃ t, exec i s = .next t)

/-- R150: the enabling table. An enabled event has a next state; one that is not enabled is stuck. -/
def Obligations.EnablingTable : Prop :=
  ∀ (i : Instr) (s : State),
    (enabled i s → ∃ t, exec i s = .next t) ∧ (¬ enabled i s → ∃ r, exec i s = .fault r) ∧
    (agentOf i = some .rx → isPoll i = true → (enabled i s ↔ s.fatal = false ∧ s.rxPhase = .poll)) ∧
    (agentOf i = some .rx → isPoll i = false → (i = .rxCheck ∧ (enabled i s ↔ s.fatal = false ∧ s.rxPhase = .check))) ∧
    (agentOf i = some .tx → (enabled i s ↔ s.fatal = false ∧ s.txPhase = .read)) ∧
    (agentOf i = none → ((isUnitOp i = true ∨ i = .reset) ∧ enabled i s))

/-! The send direction (43_session.md section 3). -/

/-- R161: an empty line is a no-op, whatever the write outcome. -/
def Obligations.EmptyLineIsNoOp : Prop :=
  ∀ (s : State) (m : Bound), s.fatal = false → s.txPhase = .read →
    exec (.txEmpty .ok) s = .next s ∧ exec (.txEmpty .ioerr) s = .next s ∧
    decode m ⟨0x400, some []⟩ = .ok (.txEmpty .ok) ∧ decode m ⟨0x401, some []⟩ = .ok (.txEmpty .ioerr)

/-- R163: the line `exit` sets `term` and ends the send loop; it is not written and has no record. -/
def Obligations.ExitSetsTerm : Prop :=
  ∀ (s : State) (w : WriteOutcome) (m : Bound), s.fatal = false → s.txPhase = .read →
    exec (.txExit w) s = .next { s with term := true, txPhase := .done } ∧
    decode m ⟨0x400, some [0x65, 0x78, 0x69, 0x74]⟩ = .ok (.txExit .ok) ∧
    decode m ⟨0x401, some [0x65, 0x78, 0x69, 0x74]⟩ = .ok (.txExit .ioerr) ∧
    (∀ (i : Instr), agentOf i = some .tx → ∃ r, exec i { s with term := true, txPhase := .done } = .fault r)

/-- R164 and R186: a line longer than LINE_MAX is dropped and its length reported, reserved bytes or not. -/
def Obligations.TooLongLineIsReported : Prop :=
  ∀ (s : State) (l : Bytes) (k : Nat), s.fatal = false → s.txPhase = .read → k < l.length → 0 < k →
    l ≠ [0x65, 0x78, 0x69, 0x74] →
    decode (.fin k) ⟨0x400, some l⟩ = .ok (.txTooLong .ok l) ∧
    decode (.fin k) ⟨0x401, some l⟩ = .ok (.txTooLong .ioerr l) ∧
    exec (.txTooLong .ok l) s = .next { s with con := s.con ++ [.txTooLong l.length] } ∧
    exec (.txTooLong .ioerr l) s = .next { s with con := s.con ++ [.txTooLong l.length] }

/-- R181: a line with a reserved byte is refused by ENC, reported whole and dropped; nothing is written, whatever `w`
is, and the send loop goes on. -/
def Obligations.InvalidLineIsReportedAndDropped : Prop :=
  ∀ (s : State) (w : WriteOutcome) (l : Bytes), s.fatal = false → s.txPhase = .read →
    (∃ b ∈ l, b = 0x24 ∨ b = 0x2A ∨ b = 0x0D ∨ b = 0x0A) →
    enc l = .invalidPayload l ∧ exec (.txSend w l) s = .next { s with con := s.con ++ [.txInvalid l] } ∧
    ∃ t : State, exec (.enc l) s = .next t ∧ t.con = s.con ∧ t.txw = s.txw ∧ t.txPhase = .read

/-- R165 and R166: a SEND line is encoded; if ENC refuses it, it is reported and dropped; a frame is written and echoed on
OK; on IOERR the session is fatal, with no echo and `txw` as it was. -/
def Obligations.FrameIsWrittenThenEchoed : Prop :=
  ∀ (s : State) (l : Bytes), s.fatal = false → s.txPhase = .read →
    (l ≠ [] → l ≠ [0x65, 0x78, 0x69, 0x74] → (∀ k, s.params.lineMax = .fin k → l.length ≤ k) →
      decode s.params.lineMax ⟨0x400, some l⟩ = .ok (.txSend .ok l) ∧
      decode s.params.lineMax ⟨0x401, some l⟩ = .ok (.txSend .ioerr l)) ∧
    (enc l = .invalidPayload l →
      ∀ w, exec (.txSend w l) s = .next { s with con := s.con ++ [.txInvalid l] }) ∧
    (∀ f, enc l = .frame f →
      (∃ t : State, exec (.txSend .ok l) s = .next t ∧
        { t with wire := s.wire, draws := s.draws } = { s with txw := s.txw ++ f, con := s.con ++ [.txEcho l f] }) ∧
      (∃ t : State, exec (.txSend .ioerr l) s = .next t ∧
        { t with wire := s.wire, draws := s.draws } = { s with fatal := true }))

/-- MODEL'S OWN FIELDS (log 9), for R47: a successful write puts the whole frame on the wire, a failed one some prefix
of it; so the bytes of the successful writes stay on the wire in order. -/
def Obligations.WireHoldsWrittenBytesInOrder : Prop :=
  (∀ (s : State) (l f : Bytes), s.fatal = false → s.txPhase = .read → enc l = .frame f →
    (∃ t : State, exec (.txSend .ok l) s = .next t ∧ t.wire = s.wire ++ f) ∧
    (∃ (t : State) (n : Nat), exec (.txSend .ioerr l) s = .next t ∧ t.wire = s.wire ++ f.take n)) ∧
  (∀ (s t : State), s.txw.Sublist s.wire → step s = .next t → t.txw.Sublist t.wire)

/-- R72: the class of a line, tested in this order, selects the row of TX.LINE. -/
def Obligations.LineClassSelectsRow : Prop :=
  ∀ (m : Bound) (w : WriteOutcome) (l : Bytes),
    (l = [] → decode m ⟨if w = .ok then 0x400 else 0x401, some l⟩ = .ok (.txEmpty w)) ∧
    (l = [0x65, 0x78, 0x69, 0x74] → decode m ⟨if w = .ok then 0x400 else 0x401, some l⟩ = .ok (.txExit w)) ∧
    (l ≠ [] → l ≠ [0x65, 0x78, 0x69, 0x74] → (∃ k, m = .fin k ∧ k < l.length) →
      decode m ⟨if w = .ok then 0x400 else 0x401, some l⟩ = .ok (.txTooLong w l)) ∧
    (l ≠ [] → l ≠ [0x65, 0x78, 0x69, 0x74] → (∀ k, m = .fin k → l.length ≤ k) →
      decode m ⟨if w = .ok then 0x400 else 0x401, some l⟩ = .ok (.txSend w l))

/-! Reset, boot, status (70_reset_and_hazards.md, 10_state.md). -/

/-- R210: RESET, enabled in every state; `con` and `txw` are not shortened; it is the only way out of FATAL and CLEAN. -/
def Obligations.ResetRestoresResetValues : Prop :=
  (∀ (s : State) (m : Bound), ∃ t : State, exec .reset s = .next t ∧
    t.rsState = .idle ∧ t.cand = [] ∧ t.ck = 0x00 ∧ t.term = false ∧ t.fatal = false ∧
    t.rxPhase = .check ∧ t.txPhase = .read ∧ t.con = s.con ∧ t.txw = s.txw ∧ t.params = s.params ∧
    t.status = .running ∧ encode .reset = ⟨0xF00, none⟩ ∧ decode m ⟨0xF00, none⟩ = .ok .reset) ∧
  (∀ (i : Instr) (s t : State), exec i s = .next t → s.status ≠ .running → t.status ≠ s.status → i = .reset)

/-- R35: the reset values at the start of a run, of every instance and of State.reset. -/
def Obligations.RunStartsInResetState : Prop :=
  (∀ p : Params, ∃ s : State, s = State.resetWith p ∧ s.params = p ∧
    s.rsState = .idle ∧ s.clen = 0 ∧ s.ck = 0x00 ∧ s.term = false ∧ s.fatal = false ∧
    s.rxPhase = .check ∧ s.txPhase = .read ∧ s.con = [] ∧ s.txw = []) ∧
  (∃ p : Params, State.reset = State.resetWith p ∧ p.decHexLower = .accept ∧ p.decPayloadCheck = .none)

/-- R212: the boot sequence. -/
def Obligations.BootOpensTransportFirst : Prop :=
  ∀ (p : Params) (args : List Bytes) (a : OpenOutcome),
    (∀ d, args = [d] →
      boot p args .handle = .next (State.resetWith { p with deviceId := d }) ∧
      ∃ t : State, boot p args .failed = .next t ∧ t.status = .fatal ∧ t.con = [] ∧
        ∀ i, agentOf i ≠ none → ∃ r, exec i t = .fault r) ∧
    (args.length ≠ 1 → ∃ r, boot p args a = .refused r)

/-- R29: the status is a function of the state, FATAL before CLEAN; with the exit code of R168. -/
def Obligations.StatusAndExitCode : Prop :=
  ∀ s : State,
    (s.fatal = true → s.status = .fatal ∧ s.exitCode = some s.params.fatalExitCode) ∧
    (s.fatal = false → s.rxPhase = .done → s.txPhase = .done → s.status = .clean ∧ s.exitCode = some 0) ∧
    (s.fatal = false → ¬(s.rxPhase = .done ∧ s.txPhase = .done) → s.status = .running ∧ s.exitCode = none)

/-! Rules about every instruction. -/

/-- R26: only TX.EXIT sets `term`, only RESET clears it, only RX.CHECK reads it, and it is 0 at reset. -/
def Obligations.TermWritersAndReaders : Prop :=
  (∀ (i : Instr) (s t : State), exec i s = .next t →
    (s.term = false → t.term = true → ∃ w, i = .txExit w) ∧ (s.term = true → t.term = false → i = .reset)) ∧
  (∀ (i : Instr) (s t : State) (v : Bool), i ≠ .rxCheck → exec i s = .next t →
    ∃ t' : State, exec i { s with term := v } = .next t' ∧ { t' with term := t.term } = t) ∧
  (∀ p : Params, (State.resetWith p).term = false)

/-- R28: `fatal` is set only by a transport failure, stops both agents, and is cleared only by RESET. -/
def Obligations.FatalStopsBothAgents : Prop :=
  ∀ (i : Instr) (s : State),
    (s.fatal = true → agentOf i ≠ none → exec i s = .fault .sessionFatal) ∧
    (∀ t, exec i s = .next t → s.fatal = false → t.fatal = true → i = .rxIoerr ∨ ∃ l, i = .txSend .ioerr l) ∧
    (∀ t, exec i s = .next t → s.fatal = true → t.fatal = false → i = .reset)

/-- R25, R27, R33: the frame of each agent's steps, who writes `ck`, and that no step writes a parameter. -/
def Obligations.AgentsKeepToTheirOwnState : Prop :=
  ∀ (i : Instr) (s t : State), exec i s = .next t →
    t.params = s.params ∧
    (agentOf i = some .rx →
      { t with rsState := s.rsState, cand := s.cand, fatal := s.fatal, rxPhase := s.rxPhase, con := s.con } = s) ∧
    (agentOf i = some .tx →
      { t with term := s.term, fatal := s.fatal, txPhase := s.txPhase, con := s.con, txw := s.txw,
               wire := s.wire, draws := s.draws } = s) ∧
    (t.ck ≠ s.ck → i = .ckClr ∨ (∃ b, i = .ckAcc b) ∨ i = .reset)

/-- R30: both streams only grow, a step appends at most one record, exactly a successful write appends its frame to
`txw`, and no rule reads either stream back. -/
def Obligations.OutputStreamsOnlyGrow : Prop :=
  ∀ (i : Instr) (s t : State), exec i s = .next t →
    ∃ (rs : List Record) (bs : Bytes), t.con = s.con ++ rs ∧ t.txw = s.txw ++ bs ∧ rs.length ≤ 1 ∧
      (bs ≠ [] → ∃ l, i = .txSend .ok l) ∧ (∀ l f, i = .txSend .ok l → enc l = .frame f → bs = f) ∧
      ∀ (c : List Record) (x : Bytes), ∃ t' : State, exec i { s with con := c, txw := x } = .next t' ∧
        t'.con = c ++ rs ∧ t'.txw = x ++ bs ∧ { t' with con := t.con, txw := t.txw } = t

/-- R171: which steps emit a record, and that each emits exactly one. -/
def Obligations.RecordAccounting : Prop :=
  ∀ (i : Instr) (s t : State), exec i s = .next t →
    (t.con = s.con ∨ ∃ r, t.con = s.con ++ [r]) ∧
    (t.con ≠ s.con ↔
      (i = .rxLf ∧ s.rsState = .collecting ∧
        (s.params.candMax = .fin s.cand.length ∨ s.cand.getLast? = some 0x0D)) ∨
      (∃ b, i = .rxOther b ∧ s.rsState = .collecting ∧ s.params.candMax = .fin s.cand.length) ∨
      (∃ w l, i = .txTooLong w l) ∨
      (∃ w l, i = .txSend w l ∧ t.fatal = false))

/-- R80: a unit operation writes no state but `ck` (CK.CLR, CK.ACC only), and the steps after it go as without it. -/
def Obligations.UnitOpsDoNotDisturbRun : Prop :=
  ∀ (u : Instr) (s : State), isUnitOp u = true →
    ∃ s1 : State, exec u s = .next s1 ∧ { s1 with ck := s.ck, tester := s.tester } = s ∧
      (u ≠ .ckClr → (∀ b, u ≠ .ckAcc b) → s1.ck = s.ck) ∧
      ∀ i : Instr,
        (∀ t, exec i s = .next t →
          ∃ t1 : State, exec i s1 = .next t1 ∧ { t1 with ck := t.ck, tester := t.tester } = t) ∧
        (∀ r, exec i s = .fault r → exec i s1 = .fault r)

/-! The event word (30_encoding.md section 3). -/

/-- R75, R76: every well-formed instruction, every operand at every value, comes back from its event. -/
def Obligations.DecodeOfEncodeIsInstr : Prop :=
  ∀ (m : Bound) (i : Instr), i.wf m = true → decode m (encode i) = .ok i

/-- R75, R76: a valid event has one meaning: the instruction it decodes to is well formed and encodes back to it. -/
def Obligations.EncodeOfDecodeIsEvent : Prop :=
  ∀ (m : Bound) (e : PortEvent) (i : Instr), decode m e = .ok i → i.wf m = true ∧ encode i = e

/-- R77: the events that are not valid, all of them and no others, and that a step refuses them. -/
def Obligations.InvalidEventsAreRefused : Prop :=
  (∀ (m : Bound) (e : PortEvent),
    (∃ r, decode m e = .error r) ↔
      (0xB ≤ e.ev.toNat / 256 ∧ e.ev.toNat / 256 ≤ 0xE) ∨
      (e.ev.toNat / 256 ∈ [0x0, 0x2, 0x3, 0x5, 0x9, 0xA, 0xF] ∧ e.ev.toNat % 256 ≠ 0) ∨
      (e.ev.toNat / 256 = 0x4 ∧ 2 ≤ e.ev.toNat % 256) ∨
      (e.ev.toNat / 256 = 0x7 ∧ 16 ≤ e.ev.toNat % 256) ∨
      (e.ev.toNat / 256 ∈ [0x4, 0x9, 0xA] ∧ e.opnd = none) ∨
      (e.ev.toNat / 256 ∉ [0x4, 0x9, 0xA] ∧ e.opnd ≠ none)) ∧
  (∀ (s : State) (e : PortEvent) (rest : List PortEvent) (r : DecodeError), s.port = e :: rest →
    decode s.params.lineMax e = .error r → step s = .refused (.notAnEvent r))

/-- spec/opcode_table.json: a decoded event fits the row of its instruction, and every word that fits a row decodes. -/
def Obligations.DecodeAgreesWithOpcodeTable : Prop :=
  (∀ (m : Bound) (e : PortEvent) (i : Instr), decode m e = .ok i →
    ∃ r ∈ opcodeTable, r.mnemonic = i.mnemonic ∧ e.ev &&& r.mask = r.pattern ∧ r.operand = e.opnd.isSome) ∧
  (∀ (m : Bound) (e : PortEvent) (r : OpcodeRow), r ∈ opcodeTable → e.ev &&& r.mask = r.pattern →
    r.operand = e.opnd.isSome → ∃ i, decode m e = .ok i)

/-- A step takes the next offered event and runs what it decodes to. MODEL'S CHOICE (log 4): with nothing offered the
block waits unchanged. -/
def Obligations.StepRunsDecodedEvent : Prop :=
  ∀ s : State,
    (∀ (e : PortEvent) (rest : List PortEvent) (i : Instr), s.port = e :: rest →
      decode s.params.lineMax e = .ok i → step s = exec i { s with port := rest }) ∧
    (s.port = [] → step s = .next s)

/-- R78, words written out from R76: each decodes to the instruction the spec gives it. -/
def Obligations.SpecWordsDecode : Prop :=
  decode .inf ⟨0b000000000000#12, none⟩ = .ok .rxNone ∧
  decode .inf ⟨0b000101000001#12, none⟩ = .ok (.rxOther 0x41) ∧
  decode .inf ⟨0b001100000000#12, none⟩ = .ok .rxCheck ∧
  decode (.fin 4) ⟨0b010000000001#12, some [0x4C, 0x45, 0x44, 0x31]⟩ = .ok (.txSend .ioerr [0x4C, 0x45, 0x44, 0x31]) ∧
  decode .inf ⟨0b011001000101#12, none⟩ = .ok (.ckAcc 0x45) ∧
  decode .inf ⟨0b011100001100#12, none⟩ = .ok (.hexFmt 0xC) ∧
  decode .inf ⟨0b111100000000#12, none⟩ = .ok .reset

/-! Invariants and whole runs. -/

/-- R24 with the session's control invariant (R168): every step keeps it, from every state that meets it. -/
def Obligations.StepKeepsInvariant : Prop :=
  ∀ s t : State, s.Inv → step s = .next t → t.Inv

/-- The reset state of every well-formed instance meets the invariant; so does State.reset. -/
def Obligations.ResetMeetsInvariant : Prop :=
  (∀ p : Params, p.wf = true → (State.resetWith p).Inv) ∧ State.reset.Inv

/-- R24: the reassembler invariant in every reachable state, whatever the host offers and in whatever order. -/
def Obligations.ReachableStatesMeetRsmInvariant : Prop :=
  ∀ (p : Params) (es : List PortEvent) (n : Nat) (t : State), p.wf = true →
    run n { State.resetWith p with port := es } = .next t →
    (t.rsState = .idle ↔ t.cand.length = 0) ∧
    (t.rsState = .collecting → 1 ≤ t.cand.length ∧ (∀ k, p.candMax = .fin k → t.cand.length ≤ k) ∧
      t.cand[0]? = some 0x24) ∧
    (∀ i : Nat, 1 ≤ i → t.cand[i]? ≠ some 0x24) ∧
    (∀ i : Nat, t.cand[i]? = some 0x0D → t.cand[i + 1]? ≠ some 0x0A)

/-- R137: what is true of every frame RSM emits. -/
def Obligations.EmittedFramesAreFramed : Prop :=
  ∀ (i : Instr) (s t : State) (r : Record) (f : Bytes), s.RsmInv → exec i s = .next t →
    t.con = s.con ++ [r] →
    (r = .rxMalformed f ∨ (∃ p d, r = .rxValid p d f) ∨ (∃ p d, r = .rxCkbad p d f)) →
    i = .rxLf ∧ f = s.cand ++ [0x0A] ∧ f[0]? = some 0x24 ∧ (∃ x, f = x ++ [0x0D, 0x0A] ∧ noCrlfPair (x ++ [0x0D])) ∧
    3 ≤ f.length ∧ (∀ k, s.params.candMax = .fin k → f.length ≤ k) ∧ (∀ j : Nat, 1 ≤ j → f[j]? ≠ some 0x24)

/-- R138 (a): the bytes of a partial frame, then a complete frame that fits, fed from IDLE, give exactly one emitted
frame, the second; a partial frame that fits gives no record at all. -/
def Obligations.ResyncYieldsOnlySecondFrame : Prop :=
  ∀ (s : State) (part mid : Bytes) (rest : List PortEvent),
    s.fatal = false → s.term = false → s.rxPhase = .check → s.rsState = .idle → s.cand = [] →
    s.params.candMax.atLeast (mid.length + 3) = true →
    noCrlfPair part → 0x24 ∉ mid → noCrlfPair (mid ++ [0x0D]) →
    ∃ (raws : List Bytes) (r : Record),
      run (2 * (part.length + mid.length + 3))
          { s with port := rxFeed (part ++ ([0x24] ++ mid ++ [0x0D, 0x0A])) ++ rest } =
        .next { s with con := s.con ++ raws.map Record.rxOverflow ++ [r], port := rest } ∧
      (s.params.candMax.atLeast part.length = true → raws = []) ∧
      (dec s.params ([0x24] ++ mid ++ [0x0D, 0x0A]) = .malformedFrame ([0x24] ++ mid ++ [0x0D, 0x0A]) →
        r = .rxMalformed ([0x24] ++ mid ++ [0x0D, 0x0A])) ∧
      (∀ p d, dec s.params ([0x24] ++ mid ++ [0x0D, 0x0A]) = .decoded p d true →
        r = .rxValid p d ([0x24] ++ mid ++ [0x0D, 0x0A])) ∧
      (∀ p d, dec s.params ([0x24] ++ mid ++ [0x0D, 0x0A]) = .decoded p d false →
        r = .rxCkbad p d ([0x24] ++ mid ++ [0x0D, 0x0A]))

/-- R138 (b): from IDLE, bytes with no `$` anywhere leave the block as it was and give no output. -/
def Obligations.IdleNoiseEmitsNothing : Prop :=
  ∀ (s : State) (x : Bytes) (rest : List PortEvent),
    s.fatal = false → s.term = false → s.rxPhase = .check → s.rsState = .idle → 0x24 ∉ x →
    run (2 * x.length) { s with port := rxFeed x ++ rest } = .next { s with port := rest }

/-- R104, last sentence, with R109 and R155: a frame ENC makes, fed to RSM in either state and with whatever candidate
it holds, is emitted at its last byte and reported valid with its payload, if it fits. -/
def Obligations.FedFrameIsReportedValid : Prop :=
  ∀ (s : State) (p f : Bytes) (rest : List PortEvent),
    s.fatal = false → s.term = false → s.rxPhase = .check → enc p = .frame f →
    s.params.candMax.atLeast (p.length + 6) = true →
    run (2 * (p.length + 6)) { s with port := rxFeed f ++ rest } =
      .next { s with rsState := .idle, cand := [], con := s.con ++ [.rxValid p (checksum p) f], port := rest }

/-- R139: with CAND_MAX = INF no step overflows, and a bounded machine does as the unbounded one in every step that
does not overflow. -/
def Obligations.UnboundedMachineAgrees : Prop :=
  (∀ (i : Instr) (s t : State) (raw : Bytes), s.params.candMax = .inf → exec i s = .next t →
    t.con ≠ s.con ++ [.rxOverflow raw]) ∧
  (∀ (i : Instr) (s t : State), exec i s = .next t → (∀ raw, t.con ≠ s.con ++ [.rxOverflow raw]) →
    exec i { s with params := { s.params with candMax := .inf } } =
      .next { t with params := { t.params with candMax := .inf } })

/-- R170, R214: after `exit`, in a run with no RESET, the RX agent takes at most one poll step, and only if it was at
POLL; so at most one record follows. -/
def Obligations.AtMostOnePollAfterExit : Prop :=
  ∀ (s t : State) (es : List PortEvent), s.SessionInv → s.term = true → (∀ e ∈ es, e.ev ≠ 0xF00) →
    run es.length { s with port := es } = .next t →
    (es.filter fun e => decide (e.ev.toNat / 256 ≤ 2)).length ≤ (if s.rxPhase = .poll then 1 else 0) ∧
    t.con.length ≤ s.con.length + (if s.rxPhase = .poll then 1 else 0)

/-- R170, R168, R158: after `exit` the next RX steps end the session: CLEAN with exit code 0, or FATAL on a failed poll. -/
def Obligations.SessionEndsAfterExit : Prop :=
  ∀ (s : State) (rest : List PortEvent), s.SessionInv → s.term = true → s.fatal = false →
    (s.rxPhase = .check → ∃ t : State,
      step { s with port := encode .rxCheck :: rest } = .next t ∧ t.status = .clean ∧ t.exitCode = some 0) ∧
    (s.rxPhase = .poll → ∀ i, isPoll i = true → i.wf s.params.lineMax = true →
      (i = .rxIoerr → ∃ t : State, step { s with port := encode i :: rest } = .next t ∧ t.status = .fatal) ∧
      (i ≠ .rxIoerr → ∃ t : State,
        run 2 { s with port := encode i :: encode .rxCheck :: rest } = .next t ∧
        t.status = .clean ∧ t.exitCode = some 0))

/-- R51, R195: what a receive step does depends on nothing of the send side, and the other way round. -/
def Obligations.DirectionsAreIndependent : Prop :=
  (∀ (i : Instr) (s u t : State), agentOf i = some .rx → exec i s = .next t →
    u.params = s.params → u.rsState = s.rsState → u.cand = s.cand → u.term = s.term → u.fatal = s.fatal →
    u.rxPhase = s.rxPhase →
    ∃ (v : State) (rs : List Record), exec i u = .next v ∧ v.rsState = t.rsState ∧ v.cand = t.cand ∧
      v.rxPhase = t.rxPhase ∧ v.fatal = t.fatal ∧ t.con = s.con ++ rs ∧ v.con = u.con ++ rs) ∧
  (∀ (i : Instr) (s u t : State), agentOf i = some .tx → exec i s = .next t →
    u.fatal = s.fatal → u.txPhase = s.txPhase →
    ∃ (v : State) (rs : List Record) (bs : Bytes), exec i u = .next v ∧ v.txPhase = t.txPhase ∧ v.fatal = t.fatal ∧
      t.con = s.con ++ rs ∧ v.con = u.con ++ rs ∧ t.txw = s.txw ++ bs ∧ v.txw = u.txw ++ bs)

/-- R167 and the end of R170, of runs without end: a run that has ended has taken `exit` or a transport failure; a run
fair to the RX agent in which `exit` is typed and no RESET follows ends; a fair run that never ends is allowed, in which
the TX agent takes no step. The assumption rules out no run that ends, and a failed write can end a fair run. -/
def Obligations.RunsEndByExitOrFailure : Prop :=
  (∀ s : State, s.rxHasStep = true ↔ ∃ i, agentOf i = some .rx ∧ enabled i s) ∧
  (∀ (p : Params) (offers : Nat → List PortEvent) (run : Nat → State) (n : Nat),
    EndlessRun offers run → run 0 = State.resetWith p → (run n).status ≠ .running →
    ∃ (k : Nat) (i : Instr), k < n ∧ takenAt offers run k = some i ∧
      (isExit i = true ∨ isTransportFailure i = true)) ∧
  (∀ (offers : Nat → List PortEvent) (run : Nat → State) (n : Nat) (i : Instr),
    ProgressRun offers run → (run n).SessionInv → takenAt offers run n = some i → isExit i = true →
    (∀ k, n ≤ k → takenAt offers run k ≠ some .reset) →
    ∃ k, n ≤ k ∧ (run k).status ≠ .running) ∧
  (∀ p : Params, ∃ (offers : Nat → List PortEvent) (run : Nat → State),
    ProgressRun offers run ∧ run 0 = State.resetWith p ∧ (∀ n, (run n).status = .running) ∧
    ∀ n i, takenAt offers run n = some i → agentOf i ≠ some .tx) ∧
  (∀ (offers : Nat → List PortEvent) (run : Nat → State) (n : Nat),
    EndlessRun offers run → (run n).status ≠ .running → (∀ k, n ≤ k → takenAt offers run k ≠ some .reset) →
    ProgressRun offers run ∧ ∀ k, n ≤ k → (run k).status = (run n).status) ∧
  (∀ p : Params, p.wf = true → ∃ (offers : Nat → List PortEvent) (run : Nat → State) (l : Bytes),
    ProgressRun offers run ∧ run 0 = State.resetWith p ∧ takenAt offers run 0 = some (.txSend .ioerr l) ∧
    (∀ k, takenAt offers run k ≠ some .reset) ∧ ∀ k, 1 ≤ k → (run k).status = .fatal)
end

