-- ==== Sys2Proof/Laws/Decode.lean ====
section
/-! SUPPORT. The fields of an event word, and what each helper of the decoder and each classifier answers. -/

namespace Sys2Proof

@[simp] theorem evClass_evWord (c : Nibble) (d : Byte) : evClass (evWord c d) = c := by
  unfold evClass evWord
  ext i hi
  simp [hi, show 8 + i < 12 by omega]

@[simp] theorem evData_evWord (c : Nibble) (d : Byte) : evData (evWord c d) = d := by
  unfold evData evWord
  ext i hi
  simp [hi, show i < 12 by omega]

theorem evWord_evClass_evData (ev : EventWord) : evWord (evClass ev) (evData ev) = ev := by
  unfold evClass evData evWord
  ext i hi
  by_cases h : i < 8
  · simp [h, hi, BitVec.getLsbD_eq_getElem]
  · simp [h, hi, BitVec.getLsbD_eq_getElem, show i - 8 < 4 by omega, show 8 + (i - 8) = i by omega]

/-- The fields that lie within `ev[7:0]` are fields of the data. -/
@[simp] theorem extract_evWord {i n : Nat} (c : Nibble) (d : Byte) (h : i + n ≤ 8) :
    (evWord c d).extractLsb' i n = d.extractLsb' i n := by
  unfold evWord
  ext j hj
  simp [show i + j < 8 by omega, show i + j < 12 by omega]

@[simp] theorem evWrite_evWord (c : Nibble) (w : WriteOutcome) : evWrite (evWord c (writeData w)) = w := by
  revert c
  cases w <;> decide

theorem plainEvent_eq_ok {e : PortEvent} {i j : Instr} : plainEvent e i = .ok j ↔ e.opnd = none ∧ i = j := by
  unfold plainEvent
  split <;> simp_all

theorem operandEvent_eq_ok {e : PortEvent} {f : Bytes → Instr} {j : Instr} :
    operandEvent e f = .ok j ↔ ∃ x, e.opnd = some x ∧ f x = j := by
  unfold operandEvent
  split <;> simp_all

theorem requireZero_eq_ok {e : PortEvent} {n : Nat} {v : BitVec n} {r : Except DecodeError Instr} {j : Instr} :
    requireZero e v r = .ok j ↔ v = 0 ∧ r = .ok j := by
  unfold requireZero
  split <;> simp_all

namespace Machine

theorem byteClass_eq_dollar {b : Byte} : byteClass b = .dollar ↔ b = chDollar := by
  unfold byteClass
  split <;> [simp_all; split <;> simp_all]

theorem byteClass_eq_lf {b : Byte} : byteClass b = .lf ↔ b = chLf := by
  unfold byteClass
  split
  · simp_all
  · split <;> simp_all

theorem byteClass_eq_other {b : Byte} : byteClass b = .other ↔ b ≠ chDollar ∧ b ≠ chLf := by
  unfold byteClass
  split <;> [simp_all; split <;> simp_all]

theorem lineClass_eq_empty {m : Bound} {l : Bytes} : lineClass m l = .empty ↔ l = [] := by
  unfold lineClass
  repeat' split
  all_goals simp_all

theorem lineClass_eq_exit {m : Bound} {l : Bytes} : lineClass m l = .exit ↔ l = exitLine := by
  unfold lineClass
  repeat' split
  all_goals simp_all [exitLine]

theorem lineClass_eq_tooLong {m : Bound} {l : Bytes} :
    lineClass m l = .tooLong ↔ l ≠ [] ∧ l ≠ exitLine ∧ exceeds m l.length = true := by
  unfold lineClass
  repeat' split
  all_goals simp_all

theorem lineClass_eq_send {m : Bound} {l : Bytes} :
    lineClass m l = .send ↔ l ≠ [] ∧ l ≠ exitLine ∧ exceeds m l.length = false := by
  unfold lineClass
  repeat' split
  all_goals simp_all

theorem reaches_iff {m : Bound} {n : Nat} : reaches m n = true ↔ m = .fin n := by
  cases m <;> simp [reaches, eq_comm]

theorem exceeds_iff {m : Bound} {n : Nat} : exceeds m n = true ↔ ∃ k, m = .fin k ∧ k < n := by
  cases m <;> simp [exceeds]

theorem isReserved_iff {b : Byte} :
    isReserved b = true ↔ b = chDollar ∨ b = chStar ∨ b = chCr ∨ b = chLf := by
  simp [isReserved, or_assoc]

end Machine

end Sys2Proof
end

