-- ==== Sys2Proof/Laws/State.lean ====
section
/-! SUPPORT. One lemma per field per named update of State, so that no proof unfolds a record update. -/

namespace Sys2Proof.Machine

variable (s : State)

@[simp] theorem clen_eq : s.clen = s.cand.length := rfl

/-! candStart -/

@[simp] theorem candStart_params : (s.candStart).params = s.params := rfl
@[simp] theorem candStart_rsState : (s.candStart).rsState = .collecting := rfl
@[simp] theorem candStart_cand : (s.candStart).cand = [chDollar] := rfl
@[simp] theorem candStart_ck : (s.candStart).ck = s.ck := rfl
@[simp] theorem candStart_term : (s.candStart).term = s.term := rfl
@[simp] theorem candStart_fatal : (s.candStart).fatal = s.fatal := rfl
@[simp] theorem candStart_rxPhase : (s.candStart).rxPhase = s.rxPhase := rfl
@[simp] theorem candStart_txPhase : (s.candStart).txPhase = s.txPhase := rfl
@[simp] theorem candStart_con : (s.candStart).con = s.con := rfl
@[simp] theorem candStart_txw : (s.candStart).txw = s.txw := rfl
@[simp] theorem candStart_wire : (s.candStart).wire = s.wire := rfl
@[simp] theorem candStart_draws : (s.candStart).draws = s.draws := rfl
@[simp] theorem candStart_tester : (s.candStart).tester = s.tester := rfl
@[simp] theorem candStart_port : (s.candStart).port = s.port := rfl

/-! candAppend -/

@[simp] theorem candAppend_params (b : Byte) : (s.candAppend b).params = s.params := rfl
@[simp] theorem candAppend_rsState (b : Byte) : (s.candAppend b).rsState = s.rsState := rfl
@[simp] theorem candAppend_cand (b : Byte) : (s.candAppend b).cand = s.cand ++ [b] := rfl
@[simp] theorem candAppend_ck (b : Byte) : (s.candAppend b).ck = s.ck := rfl
@[simp] theorem candAppend_term (b : Byte) : (s.candAppend b).term = s.term := rfl
@[simp] theorem candAppend_fatal (b : Byte) : (s.candAppend b).fatal = s.fatal := rfl
@[simp] theorem candAppend_rxPhase (b : Byte) : (s.candAppend b).rxPhase = s.rxPhase := rfl
@[simp] theorem candAppend_txPhase (b : Byte) : (s.candAppend b).txPhase = s.txPhase := rfl
@[simp] theorem candAppend_con (b : Byte) : (s.candAppend b).con = s.con := rfl
@[simp] theorem candAppend_txw (b : Byte) : (s.candAppend b).txw = s.txw := rfl
@[simp] theorem candAppend_wire (b : Byte) : (s.candAppend b).wire = s.wire := rfl
@[simp] theorem candAppend_draws (b : Byte) : (s.candAppend b).draws = s.draws := rfl
@[simp] theorem candAppend_tester (b : Byte) : (s.candAppend b).tester = s.tester := rfl
@[simp] theorem candAppend_port (b : Byte) : (s.candAppend b).port = s.port := rfl

/-! candClear -/

@[simp] theorem candClear_params : (s.candClear).params = s.params := rfl
@[simp] theorem candClear_rsState : (s.candClear).rsState = .idle := rfl
@[simp] theorem candClear_cand : (s.candClear).cand = [] := rfl
@[simp] theorem candClear_ck : (s.candClear).ck = s.ck := rfl
@[simp] theorem candClear_term : (s.candClear).term = s.term := rfl
@[simp] theorem candClear_fatal : (s.candClear).fatal = s.fatal := rfl
@[simp] theorem candClear_rxPhase : (s.candClear).rxPhase = s.rxPhase := rfl
@[simp] theorem candClear_txPhase : (s.candClear).txPhase = s.txPhase := rfl
@[simp] theorem candClear_con : (s.candClear).con = s.con := rfl
@[simp] theorem candClear_txw : (s.candClear).txw = s.txw := rfl
@[simp] theorem candClear_wire : (s.candClear).wire = s.wire := rfl
@[simp] theorem candClear_draws : (s.candClear).draws = s.draws := rfl
@[simp] theorem candClear_tester : (s.candClear).tester = s.tester := rfl
@[simp] theorem candClear_port : (s.candClear).port = s.port := rfl

/-! emit -/

@[simp] theorem emit_params (r : Record) : (s.emit r).params = s.params := rfl
@[simp] theorem emit_rsState (r : Record) : (s.emit r).rsState = s.rsState := rfl
@[simp] theorem emit_cand (r : Record) : (s.emit r).cand = s.cand := rfl
@[simp] theorem emit_ck (r : Record) : (s.emit r).ck = s.ck := rfl
@[simp] theorem emit_term (r : Record) : (s.emit r).term = s.term := rfl
@[simp] theorem emit_fatal (r : Record) : (s.emit r).fatal = s.fatal := rfl
@[simp] theorem emit_rxPhase (r : Record) : (s.emit r).rxPhase = s.rxPhase := rfl
@[simp] theorem emit_txPhase (r : Record) : (s.emit r).txPhase = s.txPhase := rfl
@[simp] theorem emit_con (r : Record) : (s.emit r).con = s.con ++ [r] := rfl
@[simp] theorem emit_txw (r : Record) : (s.emit r).txw = s.txw := rfl
@[simp] theorem emit_wire (r : Record) : (s.emit r).wire = s.wire := rfl
@[simp] theorem emit_draws (r : Record) : (s.emit r).draws = s.draws := rfl
@[simp] theorem emit_tester (r : Record) : (s.emit r).tester = s.tester := rfl
@[simp] theorem emit_port (r : Record) : (s.emit r).port = s.port := rfl

/-! answer -/

@[simp] theorem answer_params (r : UnitResult) : (s.answer r).params = s.params := rfl
@[simp] theorem answer_rsState (r : UnitResult) : (s.answer r).rsState = s.rsState := rfl
@[simp] theorem answer_cand (r : UnitResult) : (s.answer r).cand = s.cand := rfl
@[simp] theorem answer_ck (r : UnitResult) : (s.answer r).ck = s.ck := rfl
@[simp] theorem answer_term (r : UnitResult) : (s.answer r).term = s.term := rfl
@[simp] theorem answer_fatal (r : UnitResult) : (s.answer r).fatal = s.fatal := rfl
@[simp] theorem answer_rxPhase (r : UnitResult) : (s.answer r).rxPhase = s.rxPhase := rfl
@[simp] theorem answer_txPhase (r : UnitResult) : (s.answer r).txPhase = s.txPhase := rfl
@[simp] theorem answer_con (r : UnitResult) : (s.answer r).con = s.con := rfl
@[simp] theorem answer_txw (r : UnitResult) : (s.answer r).txw = s.txw := rfl
@[simp] theorem answer_wire (r : UnitResult) : (s.answer r).wire = s.wire := rfl
@[simp] theorem answer_draws (r : UnitResult) : (s.answer r).draws = s.draws := rfl
@[simp] theorem answer_tester (r : UnitResult) : (s.answer r).tester = s.tester ++ [r] := rfl
@[simp] theorem answer_port (r : UnitResult) : (s.answer r).port = s.port := rfl

/-! txWriteOk -/

@[simp] theorem txWriteOk_params (f : Bytes) : (s.txWriteOk f).params = s.params := rfl
@[simp] theorem txWriteOk_rsState (f : Bytes) : (s.txWriteOk f).rsState = s.rsState := rfl
@[simp] theorem txWriteOk_cand (f : Bytes) : (s.txWriteOk f).cand = s.cand := rfl
@[simp] theorem txWriteOk_ck (f : Bytes) : (s.txWriteOk f).ck = s.ck := rfl
@[simp] theorem txWriteOk_term (f : Bytes) : (s.txWriteOk f).term = s.term := rfl
@[simp] theorem txWriteOk_fatal (f : Bytes) : (s.txWriteOk f).fatal = s.fatal := rfl
@[simp] theorem txWriteOk_rxPhase (f : Bytes) : (s.txWriteOk f).rxPhase = s.rxPhase := rfl
@[simp] theorem txWriteOk_txPhase (f : Bytes) : (s.txWriteOk f).txPhase = s.txPhase := rfl
@[simp] theorem txWriteOk_con (f : Bytes) : (s.txWriteOk f).con = s.con := rfl
@[simp] theorem txWriteOk_txw (f : Bytes) : (s.txWriteOk f).txw = s.txw ++ f := rfl
@[simp] theorem txWriteOk_wire (f : Bytes) : (s.txWriteOk f).wire = s.wire ++ f := rfl
@[simp] theorem txWriteOk_draws (f : Bytes) : (s.txWriteOk f).draws = s.draws := rfl
@[simp] theorem txWriteOk_tester (f : Bytes) : (s.txWriteOk f).tester = s.tester := rfl
@[simp] theorem txWriteOk_port (f : Bytes) : (s.txWriteOk f).port = s.port := rfl

/-! txWriteFail -/

@[simp] theorem txWriteFail_params (f : Bytes) : (s.txWriteFail f).params = s.params := rfl
@[simp] theorem txWriteFail_rsState (f : Bytes) : (s.txWriteFail f).rsState = s.rsState := rfl
@[simp] theorem txWriteFail_cand (f : Bytes) : (s.txWriteFail f).cand = s.cand := rfl
@[simp] theorem txWriteFail_ck (f : Bytes) : (s.txWriteFail f).ck = s.ck := rfl
@[simp] theorem txWriteFail_term (f : Bytes) : (s.txWriteFail f).term = s.term := rfl
@[simp] theorem txWriteFail_fatal (f : Bytes) : (s.txWriteFail f).fatal = s.fatal := rfl
@[simp] theorem txWriteFail_rxPhase (f : Bytes) : (s.txWriteFail f).rxPhase = s.rxPhase := rfl
@[simp] theorem txWriteFail_txPhase (f : Bytes) : (s.txWriteFail f).txPhase = s.txPhase := rfl
@[simp] theorem txWriteFail_con (f : Bytes) : (s.txWriteFail f).con = s.con := rfl
@[simp] theorem txWriteFail_txw (f : Bytes) : (s.txWriteFail f).txw = s.txw := rfl
@[simp] theorem txWriteFail_wire (f : Bytes) : (s.txWriteFail f).wire = s.wire ++ f.take (Config.wirePrefix s.draws) := rfl
@[simp] theorem txWriteFail_draws (f : Bytes) : (s.txWriteFail f).draws = s.draws + 1 := rfl
@[simp] theorem txWriteFail_tester (f : Bytes) : (s.txWriteFail f).tester = s.tester := rfl
@[simp] theorem txWriteFail_port (f : Bytes) : (s.txWriteFail f).port = s.port := rfl

/-! setRxPhase -/

@[simp] theorem setRxPhase_params (p : RxPhase) : (s.setRxPhase p).params = s.params := rfl
@[simp] theorem setRxPhase_rsState (p : RxPhase) : (s.setRxPhase p).rsState = s.rsState := rfl
@[simp] theorem setRxPhase_cand (p : RxPhase) : (s.setRxPhase p).cand = s.cand := rfl
@[simp] theorem setRxPhase_ck (p : RxPhase) : (s.setRxPhase p).ck = s.ck := rfl
@[simp] theorem setRxPhase_term (p : RxPhase) : (s.setRxPhase p).term = s.term := rfl
@[simp] theorem setRxPhase_fatal (p : RxPhase) : (s.setRxPhase p).fatal = s.fatal := rfl
@[simp] theorem setRxPhase_rxPhase (p : RxPhase) : (s.setRxPhase p).rxPhase = p := rfl
@[simp] theorem setRxPhase_txPhase (p : RxPhase) : (s.setRxPhase p).txPhase = s.txPhase := rfl
@[simp] theorem setRxPhase_con (p : RxPhase) : (s.setRxPhase p).con = s.con := rfl
@[simp] theorem setRxPhase_txw (p : RxPhase) : (s.setRxPhase p).txw = s.txw := rfl
@[simp] theorem setRxPhase_wire (p : RxPhase) : (s.setRxPhase p).wire = s.wire := rfl
@[simp] theorem setRxPhase_draws (p : RxPhase) : (s.setRxPhase p).draws = s.draws := rfl
@[simp] theorem setRxPhase_tester (p : RxPhase) : (s.setRxPhase p).tester = s.tester := rfl
@[simp] theorem setRxPhase_port (p : RxPhase) : (s.setRxPhase p).port = s.port := rfl

/-! terminate -/

@[simp] theorem terminate_params : (s.terminate).params = s.params := rfl
@[simp] theorem terminate_rsState : (s.terminate).rsState = s.rsState := rfl
@[simp] theorem terminate_cand : (s.terminate).cand = s.cand := rfl
@[simp] theorem terminate_ck : (s.terminate).ck = s.ck := rfl
@[simp] theorem terminate_term : (s.terminate).term = true := rfl
@[simp] theorem terminate_fatal : (s.terminate).fatal = s.fatal := rfl
@[simp] theorem terminate_rxPhase : (s.terminate).rxPhase = s.rxPhase := rfl
@[simp] theorem terminate_txPhase : (s.terminate).txPhase = .done := rfl
@[simp] theorem terminate_con : (s.terminate).con = s.con := rfl
@[simp] theorem terminate_txw : (s.terminate).txw = s.txw := rfl
@[simp] theorem terminate_wire : (s.terminate).wire = s.wire := rfl
@[simp] theorem terminate_draws : (s.terminate).draws = s.draws := rfl
@[simp] theorem terminate_tester : (s.terminate).tester = s.tester := rfl
@[simp] theorem terminate_port : (s.terminate).port = s.port := rfl

/-! setCk -/

@[simp] theorem setCk_params (v : Byte) : (s.setCk v).params = s.params := rfl
@[simp] theorem setCk_rsState (v : Byte) : (s.setCk v).rsState = s.rsState := rfl
@[simp] theorem setCk_cand (v : Byte) : (s.setCk v).cand = s.cand := rfl
@[simp] theorem setCk_ck (v : Byte) : (s.setCk v).ck = v := rfl
@[simp] theorem setCk_term (v : Byte) : (s.setCk v).term = s.term := rfl
@[simp] theorem setCk_fatal (v : Byte) : (s.setCk v).fatal = s.fatal := rfl
@[simp] theorem setCk_rxPhase (v : Byte) : (s.setCk v).rxPhase = s.rxPhase := rfl
@[simp] theorem setCk_txPhase (v : Byte) : (s.setCk v).txPhase = s.txPhase := rfl
@[simp] theorem setCk_con (v : Byte) : (s.setCk v).con = s.con := rfl
@[simp] theorem setCk_txw (v : Byte) : (s.setCk v).txw = s.txw := rfl
@[simp] theorem setCk_wire (v : Byte) : (s.setCk v).wire = s.wire := rfl
@[simp] theorem setCk_draws (v : Byte) : (s.setCk v).draws = s.draws := rfl
@[simp] theorem setCk_tester (v : Byte) : (s.setCk v).tester = s.tester := rfl
@[simp] theorem setCk_port (v : Byte) : (s.setCk v).port = s.port := rfl

/-! transportFail -/

@[simp] theorem transportFail_params : (s.transportFail).params = s.params := rfl
@[simp] theorem transportFail_rsState : (s.transportFail).rsState = s.rsState := rfl
@[simp] theorem transportFail_cand : (s.transportFail).cand = s.cand := rfl
@[simp] theorem transportFail_ck : (s.transportFail).ck = s.ck := rfl
@[simp] theorem transportFail_term : (s.transportFail).term = s.term := rfl
@[simp] theorem transportFail_fatal : (s.transportFail).fatal = true := rfl
@[simp] theorem transportFail_rxPhase : (s.transportFail).rxPhase = s.rxPhase := rfl
@[simp] theorem transportFail_txPhase : (s.transportFail).txPhase = s.txPhase := rfl
@[simp] theorem transportFail_con : (s.transportFail).con = s.con := rfl
@[simp] theorem transportFail_txw : (s.transportFail).txw = s.txw := rfl
@[simp] theorem transportFail_wire : (s.transportFail).wire = s.wire := rfl
@[simp] theorem transportFail_draws : (s.transportFail).draws = s.draws := rfl
@[simp] theorem transportFail_tester : (s.transportFail).tester = s.tester := rfl
@[simp] theorem transportFail_port : (s.transportFail).port = s.port := rfl

/-! resetBlock -/

@[simp] theorem resetBlock_params : (s.resetBlock).params = s.params := rfl
@[simp] theorem resetBlock_rsState : (s.resetBlock).rsState = .idle := rfl
@[simp] theorem resetBlock_cand : (s.resetBlock).cand = [] := rfl
@[simp] theorem resetBlock_ck : (s.resetBlock).ck = 0x00 := rfl
@[simp] theorem resetBlock_term : (s.resetBlock).term = false := rfl
@[simp] theorem resetBlock_fatal : (s.resetBlock).fatal = false := rfl
@[simp] theorem resetBlock_rxPhase : (s.resetBlock).rxPhase = .check := rfl
@[simp] theorem resetBlock_txPhase : (s.resetBlock).txPhase = .read := rfl
@[simp] theorem resetBlock_con : (s.resetBlock).con = s.con := rfl
@[simp] theorem resetBlock_txw : (s.resetBlock).txw = s.txw := rfl
@[simp] theorem resetBlock_wire : (s.resetBlock).wire = s.wire := rfl
@[simp] theorem resetBlock_draws : (s.resetBlock).draws = s.draws := rfl
@[simp] theorem resetBlock_tester : (s.resetBlock).tester = s.tester := rfl
@[simp] theorem resetBlock_port : (s.resetBlock).port = s.port := rfl

end Sys2Proof.Machine
end

