-- ==== Sys2Proof/Laws/Ops.lean ====
section
/-! SUPPORT. One lemma per shared operation that says everything it can do; callers cite it and do not unfold it. -/

namespace Sys2Proof.Machine

variable {s t : State}

/-- Everything a step of the RX agent can do. -/
theorem rxStep_eq_next {p : RxPhase} {u : State} :
    rxStep p s t = .next u ↔ s.fatal = false ∧ s.rxPhase = p ∧ t = u := by
  unfold rxStep
  split
  · simp_all
  · split <;> simp_all

/-- Everything a step of the TX agent can do. -/
theorem txStep_eq_next {u : State} : txStep s t = .next u ↔ s.fatal = false ∧ s.txPhase = .read ∧ t = u := by
  unfold txStep
  split
  · simp_all
  · split <;> simp_all

/-- An RX step does not refuse. -/
theorem rxStep_stuck {p : RxPhase} (h : ¬(s.fatal = false ∧ s.rxPhase = p)) : ∃ r, rxStep p s t = .fault r := by
  unfold rxStep
  split
  · exact ⟨_, rfl⟩
  · split
    · simp_all
    · exact ⟨_, rfl⟩

/-- A TX step does not refuse. -/
theorem txStep_stuck (h : ¬(s.fatal = false ∧ s.txPhase = .read)) : ∃ r, txStep s t = .fault r := by
  unfold txStep
  split
  · exact ⟨_, rfl⟩
  · split
    · simp_all
    · exact ⟨_, rfl⟩

theorem candFull_iff : s.candFull = true ↔ s.params.candMax = .fin s.clen := reaches_iff

@[simp] theorem candRead_eq (i : Nat) : s.candRead i = s.cand[i]? := rfl

@[simp] theorem candSnapshot_eq : s.candSnapshot = s.cand := rfl

/-- Everything RSM can do on a byte that is neither `$` nor LF. -/
theorem rsmOther_cases (b : Byte) (s : State) :
    (s.rsState = .idle ∧ rsmOther b s = (s, .nothing)) ∨
    (s.rsState = .collecting ∧ s.candFull = true ∧ rsmOther b s = (s.candClear, .overflow s.cand)) ∨
    (s.rsState = .collecting ∧ s.candFull = false ∧ rsmOther b s = (s.candAppend b, .nothing)) := by
  unfold rsmOther rsmDiscard rsmOverflow
  cases s.rsState <;> cases hf : s.candFull <;> simp

/-- After the LF is appended, the byte before it is the last byte of the candidate. -/
theorem lf_completes_iff (h : s.cand ≠ []) :
    (s.candAppend chLf).candRead ((s.candAppend chLf).clen - 2) = some chCr ↔ s.cand.getLast? = some chCr := by
  obtain ⟨c, b, hc⟩ : ∃ c b, s.cand = c ++ [b] := ⟨_, _, (List.dropLast_append_getLast h).symm⟩
  simp [hc]

/-- Everything RSM can do on an LF. -/
theorem rsmLf_cases (s : State) :
    (s.rsState = .idle ∧ rsmLf s = (s, .nothing)) ∨
    (s.rsState = .collecting ∧ s.candFull = true ∧ rsmLf s = (s.candClear, .overflow s.cand)) ∨
    (s.rsState = .collecting ∧ s.candFull = false ∧ s.cand.getLast? = some chCr ∧
      rsmLf s = ((s.candAppend chLf).candClear, .frame (s.cand ++ [chLf]))) ∨
    (s.rsState = .collecting ∧ s.candFull = false ∧ s.cand.getLast? ≠ some chCr ∧
      rsmLf s = (s.candAppend chLf, .nothing)) := by
  unfold rsmLf rsmDiscard rsmOverflow rsmComplete
  cases s.rsState <;> cases hf : s.candFull <;> simp only [true_and, false_and, or_false, false_or,
    reduceCtorEq, Bool.false_eq_true, Bool.true_eq_false, if_true, if_false, candSnapshot_eq]
  by_cases hc : s.cand = []
  · right; simp [hc]
  · by_cases hl : s.cand.getLast? = some chCr
    · left; exact ⟨hl, by rw [if_pos ((lf_completes_iff hc).2 hl)]; rfl⟩
    · right; exact ⟨hl, by rw [if_neg (fun h => hl ((lf_completes_iff hc).1 h))]⟩

/-- The verdict of a frame is one of three records, each with the frame as its raw bytes. -/
theorem frameRecord_cases (p : Params) (f : Bytes) :
    (dec p f = .malformedFrame f ∧ frameRecord p f = .rxMalformed f) ∨
    (∃ x d, dec p f = .decoded x d true ∧ frameRecord p f = .rxValid x d f) ∨
    (∃ x d, dec p f = .decoded x d false ∧ frameRecord p f = .rxCkbad x d f) := by
  unfold frameRecord
  cases h : dec p f with
  | malformedFrame raw =>
    have : raw = f := by
      unfold dec at h
      split at h <;> simp_all
    simp [this]
  | decoded x d v => cases v <;> simp

theorem enc_invalid {p : Bytes} (h : p.any isReserved = true) : enc p = .invalidPayload p := by simp [enc, h]

theorem enc_frame {p : Bytes} (h : p.any isReserved = false) : enc p = .frame (frameOf p) := by simp [enc, h]

/-- Everything the send path can do with a line. -/
theorem sendLine_cases (w : WriteOutcome) (l : Bytes) (s : State) :
    (l.any isReserved = true ∧ sendLine w l s = s.emit (.txInvalid l)) ∨
    (l.any isReserved = false ∧ w = .ok ∧
      sendLine w l s = (s.txWriteOk (frameOf l)).emit (.txEcho l (frameOf l))) ∨
    (l.any isReserved = false ∧ w = .ioerr ∧ sendLine w l s = (s.txWriteFail (frameOf l)).transportFail) := by
  cases h : l.any isReserved <;> cases w <;> simp [sendLine, enc, h, writeFrame]

/-! The candidate operations keep the reassembler invariant (10_state.md R24). -/

theorem candClear_rsmInv : s.candClear.RsmInv where
  idle_iff := by simp [State.candClear]
  fits := by cases h : s.params.candMax <;> simp [exceeds, h]
  starts := by simp
  noInnerDollar := by simp
  noInnerCrlf := by simp

theorem candStart_rsmInv (h : s.params.candMax.atLeast 1 = true) : s.candStart.RsmInv where
  idle_iff := by simp
  fits := by cases hm : s.params.candMax <;> simp_all [exceeds, Bound.atLeast]; omega
  starts := by simp
  noInnerDollar i hi := by
    obtain ⟨j, rfl⟩ : ∃ j, i = j + 1 := ⟨i - 1, by omega⟩
    simp
  noInnerCrlf i := by cases i <;> simp

theorem candAppend_rsmInv {b : Byte} (h : s.RsmInv) (hc : s.rsState = .collecting) (hf : s.candFull = false)
    (hd : b ≠ chDollar) (hl : b = chLf → s.cand.getLast? ≠ some chCr) : (s.candAppend b).RsmInv := by
  have hpos : s.cand ≠ [] := by
    intro h0
    have := h.idle_iff.2 (by simp [h0])
    simp_all
  have hlen : 0 < s.cand.length := List.length_pos_iff.2 hpos
  refine ⟨by simp [hc], ?_, ?_, ?_, ?_⟩
  · have hfit := h.fits
    have hn : ¬ s.params.candMax = .fin s.clen := fun e => by simp [candFull_iff.2 e] at hf
    cases hm : s.params.candMax with
    | inf => simp [exceeds, hm]
    | fin k =>
      simp only [exceeds, hm, clen_eq, candAppend_cand, candAppend_params, List.length_append,
        List.length_singleton, decide_eq_false_iff_not, Bound.fin.injEq] at hfit hn ⊢
      omega
  · intro _
    have := h.starts hc
    rw [candRead_eq, candAppend_cand, List.getElem?_append_left hlen]
    exact this
  · intro i hi
    have := h.noInnerDollar i hi
    simp only [candRead_eq, candAppend_cand] at this ⊢
    rw [List.getElem?_append]
    split
    · exact this
    · rw [List.getElem?_singleton]
      split
      · simpa using hd
      · simp
  · intro i hi
    have := h.noInnerCrlf i
    simp only [candRead_eq, candAppend_cand] at this hi ⊢
    rw [List.getElem?_append] at hi ⊢
    split
    · rw [if_pos (by omega)] at hi
      exact this hi
    · rw [List.getElem?_singleton]
      split
      · rename_i h1 h2
        have hlast : i = s.cand.length - 1 := by omega
        rw [if_pos (by omega)] at hi
        intro hb
        apply hl (by simpa using hb)
        rw [List.getLast?_eq_getElem?, ← hlast]
        exact hi
      · simp

end Sys2Proof.Machine
end

