-- ==== Sys2Proof/Laws/Exec.lean ====
section
/-! SUPPORT. What an instruction can do, said once: every next state of exec is one of these effects. A proof about
every instruction cases on `exec_effect` and unfolds neither exec nor a meaning. -/

namespace Sys2Proof.Machine

/-- The received bytes other than `$`. -/
inductive PlainByte : Instr → Prop where
  | lf : PlainByte .rxLf
  | other (b : Byte) : PlainByte (.rxOther b)

/-- The next states of an instruction, by the branch of its rule. -/
inductive Effect (s : State) : Instr → State → Prop where
  | none : s.fatal = false → s.rxPhase = .poll → Effect s .rxNone (s.setRxPhase .check)
  | start : s.fatal = false → s.rxPhase = .poll → Effect s .rxDollar (s.candStart.setRxPhase .check)
  | discard {i : Instr} : s.fatal = false → s.rxPhase = .poll → PlainByte i → s.rsState = .idle →
      Effect s i (s.setRxPhase .check)
  | overflow {i : Instr} : s.fatal = false → s.rxPhase = .poll → PlainByte i → s.rsState = .collecting →
      s.candFull = true → Effect s i ((s.candClear.emit (.rxOverflow s.cand)).setRxPhase .check)
  | append (b : Byte) : s.fatal = false → s.rxPhase = .poll → s.rsState = .collecting → s.candFull = false →
      Effect s (.rxOther b) ((s.candAppend b).setRxPhase .check)
  | appendLf : s.fatal = false → s.rxPhase = .poll → s.rsState = .collecting → s.candFull = false →
      s.cand.getLast? ≠ some chCr → Effect s .rxLf ((s.candAppend chLf).setRxPhase .check)
  | complete : s.fatal = false → s.rxPhase = .poll → s.rsState = .collecting → s.candFull = false →
      s.cand.getLast? = some chCr →
      Effect s .rxLf ((s.candClear.emit (frameRecord s.params (s.cand ++ [chLf]))).setRxPhase .check)
  | readFail : s.fatal = false → s.rxPhase = .poll → Effect s .rxIoerr s.transportFail
  | checked : s.fatal = false → s.rxPhase = .check →
      Effect s .rxCheck (s.setRxPhase (if s.term then .done else .poll))
  | empty (w : WriteOutcome) : s.fatal = false → s.txPhase = .read → Effect s (.txEmpty w) s
  | exit (w : WriteOutcome) : s.fatal = false → s.txPhase = .read → Effect s (.txExit w) s.terminate
  | tooLong (w : WriteOutcome) (l : Bytes) : s.fatal = false → s.txPhase = .read →
      Effect s (.txTooLong w l) (s.emit (.txTooLong l.length))
  | invalid (w : WriteOutcome) (l : Bytes) : s.fatal = false → s.txPhase = .read → l.any isReserved = true →
      Effect s (.txSend w l) (s.emit (.txInvalid l))
  | written (l : Bytes) : s.fatal = false → s.txPhase = .read → l.any isReserved = false →
      Effect s (.txSend .ok l) ((s.txWriteOk (frameOf l)).emit (.txEcho l (frameOf l)))
  | writeFail (l : Bytes) : s.fatal = false → s.txPhase = .read → l.any isReserved = false →
      Effect s (.txSend .ioerr l) (s.txWriteFail (frameOf l)).transportFail
  | ckClr : Effect s .ckClr (s.setCk 0x00)
  | ckAcc (b : Byte) : Effect s (.ckAcc b) (s.setCk (s.ck ^^^ b))
  | hexFmt (n : Nibble) : Effect s (.hexFmt n) (s.answer (.hexFmt (hexFmt n)))
  | hexVal (c : Byte) : Effect s (.hexVal c) (s.answer (.hexVal (hexVal s.params.decHexLower c)))
  | enc (p : Bytes) : Effect s (.enc p) (s.answer (.enc (enc p)))
  | dec (f : Bytes) : Effect s (.dec f) (s.answer (.dec (dec s.params f)))
  | reset : Effect s .reset s.resetBlock

/-- A completed frame leaves the candidate empty, so the appended LF stays in the record only. -/
theorem complete_eq (s : State) :
    ((s.candAppend chLf).candClear, RsmOut.frame (s.cand ++ [chLf])) = (s.candClear, .frame (s.cand ++ [chLf])) := rfl

theorem exec_effect {i : Instr} {s t : State} (h : exec i s = .next t) : Effect s i t := by
  cases i with
  | rxNone => obtain ⟨hf, hp, rfl⟩ := rxStep_eq_next.1 h; exact .none hf hp
  | rxDollar => obtain ⟨hf, hp, rfl⟩ := rxStep_eq_next.1 h; exact .start hf hp
  | rxLf =>
    obtain ⟨hf, hp, rfl⟩ := rxStep_eq_next.1 h
    rcases rsmLf_cases s with ⟨a, e⟩ | ⟨a, b, e⟩ | ⟨a, b, c, e⟩ | ⟨a, b, c, e⟩ <;> rw [e]
    · exact .discard hf hp .lf a
    · exact .overflow hf hp .lf a b
    · rw [complete_eq]; exact .complete hf hp a b c
    · exact .appendLf hf hp a b c
  | rxOther b =>
    obtain ⟨hf, hp, rfl⟩ := rxStep_eq_next.1 h
    rcases rsmOther_cases b s with ⟨a, e⟩ | ⟨a, c, e⟩ | ⟨a, c, e⟩ <;> rw [e]
    · exact .discard hf hp (.other b) a
    · exact .overflow hf hp (.other b) a c
    · exact .append b hf hp a c
  | rxIoerr => obtain ⟨hf, hp, rfl⟩ := rxStep_eq_next.1 h; exact .readFail hf hp
  | rxCheck => obtain ⟨hf, hp, rfl⟩ := rxStep_eq_next.1 h; exact .checked hf hp
  | txEmpty w => obtain ⟨hf, hp, rfl⟩ := txStep_eq_next.1 h; exact .empty w hf hp
  | txExit w => obtain ⟨hf, hp, rfl⟩ := txStep_eq_next.1 h; exact .exit w hf hp
  | txTooLong w l => obtain ⟨hf, hp, rfl⟩ := txStep_eq_next.1 h; exact .tooLong w l hf hp
  | txSend w l =>
    obtain ⟨hf, hp, rfl⟩ := txStep_eq_next.1 h
    rcases sendLine_cases w l s with ⟨a, e⟩ | ⟨a, rfl, e⟩ | ⟨a, rfl, e⟩ <;> rw [e]
    · exact .invalid w l hf hp a
    · exact .written l hf hp a
    · exact .writeFail l hf hp a
  | ckClr => cases h; exact .ckClr
  | ckAcc b => cases h; exact .ckAcc b
  | hexFmt n => cases h; exact .hexFmt n
  | hexVal c => cases h; exact .hexVal c
  | enc p => cases h; exact .enc p
  | dec f => cases h; exact .dec f
  | reset => cases h; exact .reset

/-- Each effect happens: its conditions are enough for exec to answer it. -/
theorem exec_of_effect {i : Instr} {s t : State} (h : Effect s i t) : exec i s = .next t := by
  cases h with
  | none hf hp => exact rxStep_eq_next.2 ⟨hf, hp, rfl⟩
  | start hf hp => exact rxStep_eq_next.2 ⟨hf, hp, rfl⟩
  | discard hf hp hb hi =>
    cases hb with
    | lf => exact rxStep_eq_next.2 ⟨hf, hp, by simp only [rsmLf, hi]; rfl⟩
    | other b => exact rxStep_eq_next.2 ⟨hf, hp, by simp only [rsmOther, hi]; rfl⟩
  | overflow hf hp hb hc hm =>
    cases hb with
    | lf => exact rxStep_eq_next.2 ⟨hf, hp, by simp only [rsmLf, hc, hm]; rfl⟩
    | other b => exact rxStep_eq_next.2 ⟨hf, hp, by simp only [rsmOther, hc, hm]; rfl⟩
  | append b hf hp hc hm => exact rxStep_eq_next.2 ⟨hf, hp, by simp only [rsmOther, hc, hm]; rfl⟩
  | appendLf hf hp hc hm hl =>
    refine rxStep_eq_next.2 ⟨hf, hp, ?_⟩
    rcases rsmLf_cases s with ⟨a, _⟩ | ⟨_, a, _⟩ | ⟨_, _, a, _⟩ | ⟨_, _, _, e⟩
    · simp_all
    · simp_all
    · exact absurd a hl
    · rw [e]; rfl
  | complete hf hp hc hm hl =>
    refine rxStep_eq_next.2 ⟨hf, hp, ?_⟩
    rcases rsmLf_cases s with ⟨a, _⟩ | ⟨_, a, _⟩ | ⟨_, _, _, e⟩ | ⟨_, _, a, _⟩
    · simp_all
    · simp_all
    · rw [e]; rfl
    · exact absurd hl a
  | readFail hf hp => exact rxStep_eq_next.2 ⟨hf, hp, rfl⟩
  | checked hf hp => exact rxStep_eq_next.2 ⟨hf, hp, rfl⟩
  | empty w hf hp => exact txStep_eq_next.2 ⟨hf, hp, rfl⟩
  | exit w hf hp => exact txStep_eq_next.2 ⟨hf, hp, rfl⟩
  | tooLong w l hf hp => exact txStep_eq_next.2 ⟨hf, hp, rfl⟩
  | invalid w l hf hp hr => exact txStep_eq_next.2 ⟨hf, hp, by simp [sendLine, enc_invalid hr]⟩
  | written l hf hp hr => exact txStep_eq_next.2 ⟨hf, hp, by simp [sendLine, enc_frame hr, writeFrame]⟩
  | writeFail l hf hp hr => exact txStep_eq_next.2 ⟨hf, hp, by simp [sendLine, enc_frame hr, writeFrame]⟩
  | ckClr => rfl
  | ckAcc b => rfl
  | hexFmt n => rfl
  | hexVal c => rfl
  | enc p => rfl
  | dec f => rfl
  | reset => rfl

end Sys2Proof.Machine
end

