-- ==== Sys2Proof/Laws/PerInstr.lean ====
section
/-! SUPPORT. Statements made of each instruction as syntax, one lemma per constructor. -/

namespace Sys2Proof.Laws.EncodeFitsRow

/-- The event of an instruction fits the row of spec/opcode_table.json that bears its name, and has the side operand
exactly when the row takes one (30_encoding.md R76). -/
def Statement (i : Instr) : Prop :=
  ∃ r ∈ opcodeTable, r.mnemonic = i.mnemonic ∧ r.fits (encode i).ev = true ∧ r.operand = (encode i).opnd.isSome

/-- A row of the class mask fits a word of its class, whatever the data. -/
theorem fits_class (m : String) (o : Bool) (c : Nibble) (d : Byte) :
    OpcodeRow.fits ⟨m, evWord c 0, 0xF00, o⟩ (evWord c d) = true := by
  simp only [OpcodeRow.fits]
  revert c d
  decide

theorem rxNone : Statement .rxNone := ⟨⟨"RX.NONE", 0x000, 0xFFF, false⟩, by decide, by decide⟩
theorem rxDollar : Statement .rxDollar := ⟨⟨"RX.DOLLAR", 0x124, 0xFFF, false⟩, by decide, by decide⟩
theorem rxLf : Statement .rxLf := ⟨⟨"RX.LF", 0x10A, 0xFFF, false⟩, by decide, by decide⟩
theorem rxOther (b : Byte) : Statement (.rxOther b) :=
  ⟨⟨"RX.OTHER", 0x100, 0xF00, false⟩, by decide, rfl, fits_class _ _ _ _, rfl⟩
theorem rxIoerr : Statement .rxIoerr := ⟨⟨"RX.IOERR", 0x200, 0xFFF, false⟩, by decide, by decide⟩
theorem rxCheck : Statement .rxCheck := ⟨⟨"RX.CHECK", 0x300, 0xFFF, false⟩, by decide, by decide⟩
theorem txEmpty (w : WriteOutcome) : Statement (.txEmpty w) :=
  ⟨⟨"TX.EMPTY", 0x400, 0xFFE, true⟩, by decide, rfl, by cases w <;> decide, rfl⟩
theorem txExit (w : WriteOutcome) : Statement (.txExit w) :=
  ⟨⟨"TX.EXIT", 0x400, 0xFFE, true⟩, by decide, rfl, by cases w <;> decide, rfl⟩
theorem txTooLong (w : WriteOutcome) (line : Bytes) : Statement (.txTooLong w line) :=
  ⟨⟨"TX.TOOLONG", 0x400, 0xFFE, true⟩, by decide, rfl, by cases w <;> simp only [encode] <;> decide, rfl⟩
theorem txSend (w : WriteOutcome) (line : Bytes) : Statement (.txSend w line) :=
  ⟨⟨"TX.SEND", 0x400, 0xFFE, true⟩, by decide, rfl, by cases w <;> simp only [encode] <;> decide, rfl⟩
theorem ckClr : Statement .ckClr := ⟨⟨"CK.CLR", 0x500, 0xFFF, false⟩, by decide, by decide⟩
theorem ckAcc (b : Byte) : Statement (.ckAcc b) :=
  ⟨⟨"CK.ACC", 0x600, 0xF00, false⟩, by decide, rfl, fits_class _ _ _ _, rfl⟩
theorem hexFmt (n : Nibble) : Statement (.hexFmt n) :=
  ⟨⟨"HEX.FMT", 0x700, 0xFF0, false⟩, by decide, rfl, by simp only [encode]; revert n; decide, rfl⟩
theorem hexVal (c : Byte) : Statement (.hexVal c) :=
  ⟨⟨"HEX.VAL", 0x800, 0xF00, false⟩, by decide, rfl, fits_class _ _ _ _, rfl⟩
theorem enc (payload : Bytes) : Statement (.enc payload) :=
  ⟨⟨"ENC", 0x900, 0xFFF, true⟩, by decide, rfl, by simp only [encode]; decide, rfl⟩
theorem dec (frame : Bytes) : Statement (.dec frame) :=
  ⟨⟨"DEC", 0xA00, 0xFFF, true⟩, by decide, rfl, by simp only [encode]; decide, rfl⟩
theorem reset : Statement .reset := ⟨⟨"RESET", 0xF00, 0xFFF, false⟩, by decide, by decide⟩

end Sys2Proof.Laws.EncodeFitsRow
end

