-- ==== Sys2Proof/Laws/Progress.lean ====
section
/-! SUPPORT. What an offer changes, and what one step of an endless run can do. -/

namespace Sys2Proof.Machine

@[simp] theorem offer_params (s : State) (es : List PortEvent) : (s.offer es).params = s.params := rfl
@[simp] theorem offer_rsState (s : State) (es : List PortEvent) : (s.offer es).rsState = s.rsState := rfl
@[simp] theorem offer_cand (s : State) (es : List PortEvent) : (s.offer es).cand = s.cand := rfl
@[simp] theorem offer_ck (s : State) (es : List PortEvent) : (s.offer es).ck = s.ck := rfl
@[simp] theorem offer_term (s : State) (es : List PortEvent) : (s.offer es).term = s.term := rfl
@[simp] theorem offer_fatal (s : State) (es : List PortEvent) : (s.offer es).fatal = s.fatal := rfl
@[simp] theorem offer_rxPhase (s : State) (es : List PortEvent) : (s.offer es).rxPhase = s.rxPhase := rfl
@[simp] theorem offer_txPhase (s : State) (es : List PortEvent) : (s.offer es).txPhase = s.txPhase := rfl
@[simp] theorem offer_con (s : State) (es : List PortEvent) : (s.offer es).con = s.con := rfl
@[simp] theorem offer_txw (s : State) (es : List PortEvent) : (s.offer es).txw = s.txw := rfl
@[simp] theorem offer_wire (s : State) (es : List PortEvent) : (s.offer es).wire = s.wire := rfl
@[simp] theorem offer_draws (s : State) (es : List PortEvent) : (s.offer es).draws = s.draws := rfl
@[simp] theorem offer_tester (s : State) (es : List PortEvent) : (s.offer es).tester = s.tester := rfl
@[simp] theorem offer_port (s : State) (es : List PortEvent) : (s.offer es).port = s.port ++ es := rfl

theorem rxHasStep_iff {s : State} : s.rxHasStep = true ↔ s.fatal = false ∧ s.rxPhase ≠ .done := by
  simp [State.rxHasStep]

/-- At the end of a run the RX agent has no step: the session is fatal, or its loop has exited. -/
theorem rxHasStep_of_ended {s : State} (h : s.status ≠ .running) : s.rxHasStep = false := by
  cases hf : s.fatal with
  | true => simp [State.rxHasStep, hf]
  | false =>
    have hd : s.rxPhase = .done := by
      by_contra hp
      exact h (by simp [State.status, hf, hp])
    simp [State.rxHasStep, hd]

/-- A step that answers next either waits, taking nothing, or runs the instruction it takes with that event removed. -/
theorem step_taken {s t : State} (h : step s = .next t) :
    (s.taken = none ∧ t = s) ∨
    ∃ (e : PortEvent) (rest : List PortEvent) (i : Instr),
      s.port = e :: rest ∧ s.taken = some i ∧ exec i { s with port := rest } = .next t := by
  rcases hp : s.port with _ | ⟨e, rest⟩
  · simp only [step, State.takeEvent, hp, Host.Outcome.next.injEq] at h
    exact .inl ⟨by simp [State.taken, State.takeEvent, hp], h.symm⟩
  · cases hd : decode s.params.lineMax e with
    | error r => simp [step, State.takeEvent, hp, hd] at h
    | ok i =>
      simp only [step, State.takeEvent, hp, hd] at h
      exact .inr ⟨e, rest, i, rfl, by simp [State.taken, State.takeEvent, hp, hd, Except.toOption], h⟩

end Sys2Proof.Machine
end

