-- ==== Sys2Proof/Laws/Run.lean ====
section
/-! SUPPORT. Runs, one step at a time. -/

namespace Sys2Proof.Machine

@[simp] theorem run_zero (s : State) : run 0 s = .next s := rfl

/-- The host's run of the core is this run. -/
theorem run_eq_core_run (k : Nat) (s : State) : core.run k s = run k s := by
  induction k generalizing s with
  | zero => rfl
  | succ k ih =>
    have h : core.step s = step s := rfl
    simp only [Host.Core.run, run, h]
    cases step s with
    | next t => exact ih t
    | fault r => rfl
    | refused r => rfl

theorem run_succ_of_next {k : Nat} {s t : State} (h : step s = .next t) : run (k + 1) s = run k t := by
  simp [run, h]

/-- A run that ends in a next state took a first step to one. -/
theorem run_succ_eq_next {k : Nat} {s u : State} : run (k + 1) s = .next u ↔ ∃ t, step s = .next t ∧ run k t = .next u := by
  rw [run]
  cases h : step s <;> simp

theorem run_add {j k : Nat} {s t : State} (h : run j s = .next t) : run (j + k) s = run k t := by
  induction j generalizing s with
  | zero => simp_all
  | succ j ih =>
    obtain ⟨u, hu, ht⟩ := run_succ_eq_next.1 h
    rw [show j + 1 + k = (j + k) + 1 by omega, run_succ_of_next hu, ih ht]

end Sys2Proof.Machine
end

