-- ==== Sys2Proof/Tests/Slice0.lean ====
section
/-! SUPPORT. The model's own tests: ill-formed terms, words written out from 30_encoding.md, one step per instruction
with the result the vectors of 95_test_vectors.md give, and a witness for the hypotheses of each obligation. -/

namespace Sys2Proof.Tests

open Sys2Proof Sys2Proof.Machine

/-! Helpers. -/

/-- The next state of an outcome. -/
def nextOf (o : Host.Outcome State Fault Refusal) : Option State :=
  match o with
  | .next s => some s
  | .fault _ | .refused _ => none

/-- The fault of an outcome. -/
def faultOf (o : Host.Outcome State Fault Refusal) : Option Fault :=
  match o with
  | .fault r => some r
  | .next _ | .refused _ => none

/-- The refusal of an outcome. -/
def refusalOf (o : Host.Outcome State Fault Refusal) : Option Refusal :=
  match o with
  | .refused r => some r
  | .next _ | .fault _ => none

/-- `"LED1"`. -/
def led1 : Bytes := [0x4C, 0x45, 0x44, 0x31]

/-- `"$LED1*7C\r\n"` without its LF. -/
def led1Cr : Bytes := [0x24, 0x4C, 0x45, 0x44, 0x31, 0x2A, 0x37, 0x43, 0x0D]

/-- `"$LED1*7C\r\n"` (S1). -/
def led1Frame : Bytes := [0x24, 0x4C, 0x45, 0x44, 0x31, 0x2A, 0x37, 0x43, 0x0D, 0x0A]

/-- `"$ABCDEFG"`. -/
def abcdefg : Bytes := [0x24, 0x41, 0x42, 0x43, 0x44, 0x45, 0x46, 0x47]

/-- `S0` of 95_test_vectors.md. -/
def s0 : State := .reset

/-- `S0` with CAND_MAX and LINE_MAX finite. -/
def bounded (c l : Nat) : State := .resetWith { Config.params with candMax := .fin c, lineMax := .fin l }

/-- A state about to poll, with no candidate. -/
def atPoll : State := { s0 with rxPhase := .poll }

/-- A state about to poll, collecting `c`. -/
def collecting (c : Bytes) : State := { atPoll with rsState := .collecting, cand := c }

/-- CAND_MAX = 8, about to poll, the buffer full. -/
def full : State := { bounded 8 4 with rxPhase := .poll, rsState := .collecting, cand := abcdefg }

/-! WellFormed refuses each kind of ill-formed term. -/

theorem test_wf_rxOther_dollar : (Instr.rxOther 0x24).wf .inf = false := by decide
theorem test_wf_rxOther_lf : (Instr.rxOther 0x0A).wf .inf = false := by decide
theorem test_wf_tooLong_fits : (Instr.txTooLong .ok led1).wf (.fin 4) = false := by decide
theorem test_wf_tooLong_unbounded : (Instr.txTooLong .ok led1).wf .inf = false := by decide
theorem test_wf_tooLong_exit : (Instr.txTooLong .ok [0x65, 0x78, 0x69, 0x74]).wf (.fin 2) = false := by decide
theorem test_wf_send_empty : (Instr.txSend .ok []).wf .inf = false := by decide
theorem test_wf_send_exit : (Instr.txSend .ok [0x65, 0x78, 0x69, 0x74]).wf .inf = false := by decide
theorem test_wf_send_long : (Instr.txSend .ok led1).wf (.fin 3) = false := by decide
theorem test_wf_accepts : (Instr.rxOther 0x0D).wf .inf = true ∧ (Instr.txTooLong .ok led1).wf (.fin 3) = true ∧
    (Instr.txSend .ok led1).wf (.fin 4) = true := by decide
theorem test_params_wf : Config.params.wf = true ∧ { Config.params with candMax := .fin 5 }.wf = false ∧
    { Config.params with lineMax := .fin 0 }.wf = false ∧ { Config.params with pollTimeout := 0 }.wf = false ∧
    { Config.params with fatalExitCode := 0 }.wf = false := by decide

/-! The word of every constructor, written out from R76 and R78: `ev[11:8]`, then `ev[7:0]`. -/

theorem test_decode_rxNone : (decode .inf ⟨0b0000_00000000, none⟩).toOption = some .rxNone := by decide
theorem test_decode_rxDollar : (decode .inf ⟨0b0001_00100100, none⟩).toOption = some .rxDollar := by decide
theorem test_decode_rxLf : (decode .inf ⟨0b0001_00001010, none⟩).toOption = some .rxLf := by decide
theorem test_decode_rxOther : (decode .inf ⟨0b0001_00001101, none⟩).toOption = some (.rxOther 0x0D) := by decide
theorem test_decode_rxOther_ends : (decode .inf ⟨0x100, none⟩).toOption = some (.rxOther 0x00) ∧
    (decode .inf ⟨0x1FF, none⟩).toOption = some (.rxOther 0xFF) := by decide
theorem test_decode_rxIoerr : (decode .inf ⟨0b0010_00000000, none⟩).toOption = some .rxIoerr := by decide
theorem test_decode_rxCheck : (decode .inf ⟨0b0011_00000000, none⟩).toOption = some .rxCheck := by decide
theorem test_decode_txEmpty : (decode .inf ⟨0b0100_00000001, some []⟩).toOption = some (.txEmpty .ioerr) := by decide
theorem test_decode_txExit : (decode (.fin 2) ⟨0b0100_00000000, some [0x65, 0x78, 0x69, 0x74]⟩).toOption =
    some (.txExit .ok) := by decide
theorem test_decode_txTooLong : (decode (.fin 4) ⟨0b0100_00000000, some [0x4C, 0x45, 0x44, 0x31, 0x32]⟩).toOption =
    some (.txTooLong .ok [0x4C, 0x45, 0x44, 0x31, 0x32]) := by decide
theorem test_decode_txSend : (decode (.fin 4) ⟨0b0100_00000001, some led1⟩).toOption =
    some (.txSend .ioerr led1) := by decide
theorem test_decode_upper_exit_is_send : (decode .inf ⟨0x400, some [0x45, 0x58, 0x49, 0x54]⟩).toOption =
    some (.txSend .ok [0x45, 0x58, 0x49, 0x54]) := by decide
theorem test_decode_ckClr : (decode .inf ⟨0b0101_00000000, none⟩).toOption = some .ckClr := by decide
theorem test_decode_ckAcc : (decode .inf ⟨0b0110_01000101, none⟩).toOption = some (.ckAcc 0x45) := by decide
theorem test_decode_hexFmt : (decode .inf ⟨0b0111_00001100, none⟩).toOption = some (.hexFmt 0xC) := by decide
theorem test_decode_hexVal : (decode .inf ⟨0b1000_00110111, none⟩).toOption = some (.hexVal 0x37) := by decide
theorem test_decode_enc : (decode .inf ⟨0b1001_00000000, some led1⟩).toOption = some (.enc led1) := by decide
theorem test_decode_dec : (decode .inf ⟨0b1010_00000000, some led1Frame⟩).toOption = some (.dec led1Frame) := by decide
theorem test_decode_reset : (decode .inf ⟨0b1111_00000000, none⟩).toOption = some .reset := by decide

/-- V128. -/
theorem test_decode_reserved_class :
    ([0xB00, 0xC7F, 0xDFF, 0xE00] : List EventWord).all (fun w => (decode .inf ⟨w, none⟩).toOption.isNone) = true := by
  decide

/-- V26, V129. -/
theorem test_decode_must_be_zero :
    ([0x001, 0x010, 0x201, 0x301, 0x501, 0x710, 0xF01] : List EventWord).all
      (fun w => (decode .inf ⟨w, none⟩).toOption.isNone) = true ∧
    ([0x402, 0x480, 0x901, 0xA01] : List EventWord).all
      (fun w => (decode .inf ⟨w, some []⟩).toOption.isNone) = true := by decide

/-- V131. -/
theorem test_decode_operand :
    (decode .inf ⟨0x900, none⟩).toOption = none ∧ (decode .inf ⟨0x400, none⟩).toOption = none ∧
    (decode .inf ⟨0xA00, none⟩).toOption = none ∧ (decode .inf ⟨0x300, some []⟩).toOption = none := by decide

theorem test_table_word : decodeTableWord 16 0x645 = some (.ckAcc 0x45) ∧ decodeTableWord 16 0x124 = some .rxDollar ∧
    decodeTableWord 16 0x401 = some (.txEmpty .ioerr) ∧ decodeTableWord 16 0xB00 = none ∧
    decodeTableWord 16 0x1300 = none := by decide

/-! One step of each instruction. -/

/-- V106. -/
theorem test_rxNone : nextOf (exec .rxNone atPoll) = some s0 := by decide
/-- V99 (a `$` on a full buffer restarts), S11. -/
theorem test_rxDollar : nextOf (exec .rxDollar full) =
    some { full with cand := [0x24], rxPhase := .check } := by decide
/-- V107. -/
theorem test_rxLf_valid : nextOf (exec .rxLf (collecting led1Cr)) =
    some { s0 with con := [.rxValid led1 0x7C led1Frame] } := by decide
/-- V89: an LF after `$` is appended. -/
theorem test_rxLf_append : nextOf (exec .rxLf (collecting [0x24])) =
    some { collecting [0x24, 0x0A] with rxPhase := .check } := by decide
/-- V110. -/
theorem test_rxOther_overflow : nextOf (exec (.rxOther 0x48) full) =
    some { bounded 8 4 with con := [.rxOverflow abcdefg] } := by decide
/-- The example of R133. -/
theorem test_rxOther_append :
    nextOf (exec (.rxOther 0x0D) (collecting [0x24, 0x4C, 0x45, 0x44, 0x31, 0x2A, 0x37, 0x43])) =
      some { collecting led1Cr with rxPhase := .check } := by decide
/-- V111. -/
theorem test_rxIoerr : nextOf (exec .rxIoerr atPoll) = some { atPoll with fatal := true } := by decide
/-- V104, V105. -/
theorem test_rxCheck : nextOf (exec .rxCheck s0) = some atPoll ∧
    nextOf (exec .rxCheck { s0 with term := true }) = some { s0 with term := true, rxPhase := .done } := by decide
/-- V113. -/
theorem test_txEmpty : nextOf (exec (.txEmpty .ioerr) s0) = some s0 := by decide
/-- V114. -/
theorem test_txExit : nextOf (exec (.txExit .ok) s0) = some { s0 with term := true, txPhase := .done } := by decide
/-- V118. -/
theorem test_txTooLong : nextOf (exec (.txTooLong .ok [0x4C, 0x45, 0x44, 0x31, 0x32]) (bounded 8 4)) =
    some { bounded 8 4 with con := [.txTooLong 5] } := by decide
/-- V115. -/
theorem test_txSend_ok : (nextOf (exec (.txSend .ok led1) s0)).map (fun t => (t.txw, t.con, t.fatal)) =
    some (led1Frame, [.txEcho led1 led1Frame], false) := by decide
/-- V116. -/
theorem test_txSend_ioerr : (nextOf (exec (.txSend .ioerr led1) s0)).map (fun t => (t.txw, t.con, t.fatal)) =
    some ([], [], true) := by decide
/-- V1. -/
theorem test_ckClr : nextOf (exec .ckClr { s0 with ck := 0x7C }) = some s0 := by decide
/-- V3. -/
theorem test_ckAcc : nextOf (exec (.ckAcc 0x45) { s0 with ck := 0x4C }) = some { s0 with ck := 0x09 } := by decide
/-- V22, V23. -/
theorem test_hexFmt : (nextOf (exec (.hexFmt 9) s0)).map State.tester = some [.hexFmt 0x39] ∧
    (nextOf (exec (.hexFmt 10) s0)).map State.tester = some [.hexFmt 0x41] := by decide
/-- V32, V36. -/
theorem test_hexVal : (nextOf (exec (.hexVal 0x41) s0)).map State.tester = some [.hexVal (some 10)] ∧
    (nextOf (exec (.hexVal 0x61)
      (State.resetWith { Config.params with decHexLower := .reject }))).map State.tester = some [.hexVal none] := by
  decide
/-- V43, V52. -/
theorem test_enc : (nextOf (exec (.enc led1) s0)).map State.tester = some [.enc (.frame led1Frame)] ∧
    (nextOf (exec (.enc [0x41, 0x24]) s0)).map State.tester = some [.enc (.invalidPayload [0x41, 0x24])] := by decide
/-- V76: `"$A*B*1F\r\n"`; V69: `"$LED1*7\r\n"`. -/
theorem test_dec : (nextOf (exec (.dec [0x24, 0x41, 0x2A, 0x42, 0x2A, 0x31, 0x46, 0x0D, 0x0A]) s0)).map State.tester =
      some [.dec (.decoded [0x41, 0x2A, 0x42] 0x1F false)] ∧
    (nextOf (exec (.dec [0x24, 0x4C, 0x45, 0x44, 0x31, 0x2A, 0x37, 0x0D, 0x0A]) s0)).map State.tester =
      some [.dec (.malformedFrame [0x24, 0x4C, 0x45, 0x44, 0x31, 0x2A, 0x37, 0x0D, 0x0A])] := by decide
/-- V125. -/
theorem test_reset : nextOf (exec .reset { collecting [0x24, 0x41, 0x42] with
      ck := 0x7C, term := true, fatal := true, txPhase := .done, con := [.txTooLong 9], txw := led1 }) =
    some { s0 with con := [.txTooLong 9], txw := led1 } := by decide

/-- V112, V123, V124: events that are not enabled. -/
theorem test_not_enabled : faultOf (exec .rxNone s0) = some (.rxNotAt .poll) ∧
    faultOf (exec .rxCheck atPoll) = some (.rxNotAt .check) ∧
    faultOf (exec (.txSend .ok led1) { s0 with txPhase := .done }) = some .txDone ∧
    faultOf (exec .rxCheck { s0 with fatal := true }) = some .sessionFatal := by decide
/-- V126, V127. -/
theorem test_status : ({ s0 with rxPhase := .done, txPhase := .done } : State).exitCode = some 0 ∧
    ({ s0 with rxPhase := .poll, txPhase := .done, fatal := true } : State).status = .fatal := by decide
/-- S3: `"$AB\r\n"` is malformed (V109). -/
theorem test_rxLf_malformed : nextOf (exec .rxLf (collecting [0x24, 0x41, 0x42, 0x0D])) =
    some { s0 with con := [.rxMalformed [0x24, 0x41, 0x42, 0x0D, 0x0A]] } := by decide

/-! The step: the next offered event, and withFetchWord. -/

theorem test_step_takes_next_event :
    nextOf (step { s0 with port := [⟨0x64C, none⟩, ⟨0x645, none⟩] }) =
      some { s0 with ck := 0x4C, port := [⟨0x645, none⟩] } := by decide
theorem test_step_refuses : refusalOf (step { s0 with port := [⟨0xB00, none⟩] }) =
    some (.notAnEvent (.reservedClass 0xB)) := by decide
theorem test_step_waits : nextOf (step s0) = some s0 := by decide
theorem test_withFetchWord :
    nextOf (step (s0.withFetchWord 16 0x300)) = some atPoll ∧
    nextOf (step (s0.withFetchWord 16 0x124)) = some { s0 with rsState := .collecting, cand := [0x24] } ∧
    nextOf (step (s0.withFetchWord 16 0x401)) = some s0 := by decide
theorem test_boot : refusalOf (boot Config.params [] .handle) = some (.launchArguments 0) ∧
    nextOf (boot Config.params [[0x41]] .failed) =
      some { State.resetWith { Config.params with deviceId := [0x41] } with fatal := true } := by decide
theorem test_script : (scriptEvents [.ckSum led1, .rxIdle, .txLine led1 .ioerr]).map PortEvent.ev =
    [0x500, 0x64C, 0x645, 0x644, 0x631, 0x300, 0x000, 0x401] := by decide

/-! Witnesses: a concrete state and operands that meet all the hypotheses of an obligation together, one per clause.
Named after the obligation. -/

/-- `"$%*25\r\n"`: one flipped bit turns its payload byte into `$`. -/
def percentFrame : Bytes := [0x24, 0x25, 0x2A, 0x32, 0x35, 0x0D, 0x0A]

/-- DEC_PAYLOAD_CHECK = RESERVED. -/
def strict : Params := { Config.params with decPayloadCheck := .reserved }

/-- `exit` typed while the RX agent is about to poll (P6). -/
def afterExit : State := { atPoll with term := true, txPhase := .done }

/-- A check that a concrete sequence has no CR LF pair. -/
theorem noCrlfPair_of_all {x : Bytes}
    (h : (List.range x.length).all (fun j => x[j]? != some chCr || x[j + 1]? != some chLf) = true) : noCrlfPair x := by
  intro j hj
  have hm := List.all_eq_true.1 h j (List.mem_range.2 (by
    by_contra hc
    rw [List.getElem?_eq_none (by omega)] at hj
    cases hj))
  simpa [hj] using hm

theorem witness_ChecksumLaws :
    ([0x41, 0x42] : Bytes).Perm [0x42, 0x41] ∧ (∀ b : Byte, ([0x41, 0x41] : Bytes).count b % 2 = 0) ∧
    led1[3]? = some 0x31 ∧ 7 < 8 ∧ 0 ≠ 3 ∧ led1[0]? = some 0x4C := by decide

theorem witness_HexFmtGivesUppercaseDigit :
    (0x9 : Nibble).toNat ≤ 9 ∧ 9 < (0xA : Nibble).toNat ∧ 16 ≤ (0x10 : Byte).toNat := by decide

theorem witness_HexValParsesDigit :
    isHex .accept 0x2F = false ∧ isHex .reject 0x61 = false ∧ isHex .accept 0x67 = false ∧
    0x30 ≤ (0x39 : Byte).toNat ∧ (0x39 : Byte).toNat ≤ 0x39 ∧ 0x41 ≤ (0x46 : Byte).toNat ∧ (0x46 : Byte).toNat ≤ 0x46 ∧
    0x61 ≤ (0x66 : Byte).toNat ∧ (0x66 : Byte).toNat ≤ 0x66 := by decide

theorem witness_EncFramesOrRefusesPayload :
    (∃ b ∈ ([0x41, 0x24] : Bytes), b = 0x24 ∨ b = 0x2A ∨ b = 0x0D ∨ b = 0x0A) ∧
    (∀ b ∈ led1, b ≠ 0x24 ∧ b ≠ 0x2A ∧ b ≠ 0x0D ∧ b ≠ 0x0A) := by decide

theorem witness_EncOutputShape : enc led1 = .frame led1Frame := by decide

theorem witness_DecDecodesExactlySwf :
    dec Config.params led1Frame = .decoded led1 0x7C true ∧
    (∀ (p : Bytes) (d : Byte) (v : Bool), dec Config.params [0x24, 0x41, 0x42, 0x0D, 0x0A] ≠ .decoded p d v) := by
  refine ⟨by decide, fun p d v h => ?_⟩
  have hm : dec Config.params [0x24, 0x41, 0x42, 0x0D, 0x0A] = .malformedFrame [0x24, 0x41, 0x42, 0x0D, 0x0A] := by decide
  rw [hm] at h
  cases h

theorem witness_DecOfEncRoundTrip : ∀ b ∈ led1, b ≠ 0x24 ∧ b ≠ 0x2A ∧ b ≠ 0x0D ∧ b ≠ 0x0A := by decide

/-- The first and the last payload byte, with each value of DEC_PAYLOAD_CHECK and both outcomes of RESERVED. -/
theorem witness_SingleBitFlipIsDetected :
    (dec Config.params led1Frame = .decoded led1 0x7C true ∧ 1 ≤ 4 ∧ 4 + 6 ≤ led1Frame.length ∧
      led1Frame[4]? = some 0x31 ∧ 7 < 8 ∧ Config.params.decPayloadCheck = .none) ∧
    (dec strict percentFrame = .decoded [0x25] 0x25 true ∧ 1 + 6 ≤ percentFrame.length ∧ percentFrame[1]? = some 0x25 ∧
      strict.decPayloadCheck = .reserved ∧ isReserved (0x25 ^^^ (1#8 <<< 0)) = true ∧
      isReserved (0x25 ^^^ (1#8 <<< 7)) = false) := by decide

theorem witness_RunningXorGivesPayloadChecksum :
    dec Config.params led1Frame = .decoded led1 0x7C true ∧ led1Frame[led1Frame.length - 4]? = some 0x37 ∧
    led1Frame[led1Frame.length - 3]? = some 0x43 := by decide

/-- Also for EmptyPollOnlyMovesPhase, ReadFailureIsFatal and LineFeedCompletesOrAppends. -/
theorem witness_DollarStartsOrRestartsCandidate : full.fatal = false ∧ full.rxPhase = .poll := by decide

theorem witness_IdleByteIsDiscarded :
    atPoll.fatal = false ∧ atPoll.rxPhase = .poll ∧ atPoll.rsState = .idle ∧ (0x0A : Byte) ≠ 0x24 := by decide

theorem witness_OtherByteIsAppended :
    (0x0D : Byte) ≠ 0x24 ∧ (0x0D : Byte) ≠ 0x0A ∧
    (atPoll.fatal = false ∧ atPoll.rxPhase = .poll ∧ atPoll.rsState = .idle) ∧
    (full.fatal = false ∧ full.rxPhase = .poll ∧ full.rsState = .collecting ∧
      full.params.candMax = .fin full.cand.length) ∧
    ({ full with cand := [0x24] } : State).params.candMax ≠ .fin ({ full with cand := [0x24] } : State).cand.length ∧
    (collecting led1).params.candMax ≠ .fin (collecting led1).cand.length := by decide

/-- The four clauses of a byte LF in COLLECTING and IDLE, then the three verdicts. -/
theorem witness_LineFeedCompletesOrAppends :
    (atPoll.rsState = .idle ∧ full.rsState = .collecting ∧ full.params.candMax = .fin full.cand.length) ∧
    ((collecting [0x24]).fatal = false ∧ (collecting [0x24]).rxPhase = .poll ∧
      (collecting [0x24]).params.candMax ≠ .fin 1 ∧ (collecting [0x24]).cand.getLast? ≠ some 0x0D) ∧
    ((collecting led1Cr).rsState = .collecting ∧ (collecting led1Cr).params.candMax ≠ .fin 9 ∧
      (collecting led1Cr).cand.getLast? = some 0x0D ∧
      dec Config.params (led1Cr ++ [0x0A]) = .decoded led1 0x7C true) ∧
    dec Config.params ([0x24, 0x2A, 0x30, 0x31, 0x0D] ++ [0x0A]) = .decoded [] 0x01 false ∧
    dec Config.params ([0x24, 0x0D] ++ [0x0A]) = .malformedFrame [0x24, 0x0D, 0x0A] := by decide

theorem witness_FullCandidateOverflows :
    full.fatal = false ∧ full.rxPhase = .poll ∧ full.rsState = .collecting ∧
    full.params.candMax = .fin full.cand.length ∧ (0x0A : Byte) ≠ 0x24 ∧ (0x48 : Byte) ≠ 0x24 := by decide

theorem witness_EmptyPollOnlyMovesPhase :
    afterExit.fatal = false ∧ afterExit.rxPhase = .poll ∧ afterExit.term = true := by decide

theorem witness_ReadFailureIsFatal : afterExit.fatal = false ∧ afterExit.rxPhase = .poll := by decide

/-- The two clauses of RX.CHECK; the last two clauses with a poll that stores a byte, and with a line. -/
theorem witness_CheckTestsTerm :
    (s0.fatal = false ∧ s0.rxPhase = .check ∧ s0.term = false) ∧
    (({ s0 with term := true } : State).rxPhase = .check ∧ ({ s0 with term := true } : State).term = true) ∧
    (∃ t, Instr.rxLf ≠ .rxCheck ∧ exec .rxLf (collecting led1Cr) = .next t) ∧
    (∃ t, Instr.txSend .ok led1 ≠ .rxCheck ∧ exec (.txSend .ok led1) s0 = .next t) ∧
    (isPoll .rxLf = true ∧ afterExit.fatal = false ∧ afterExit.rxPhase = .poll ∧ afterExit.term = true) := by
  exact ⟨by decide, by decide, ⟨_, by decide, rfl⟩, ⟨_, by decide, rfl⟩, by decide⟩

/-- FATAL and CLEAN left by RESET. -/
theorem witness_ResetRestoresResetValues :
    (∃ t, exec .reset { s0 with fatal := true } = .next t ∧ ({ s0 with fatal := true } : State).status ≠ .running ∧
      t.status ≠ ({ s0 with fatal := true } : State).status) ∧
    (∃ t, exec .reset { afterExit with rxPhase := .done } = .next t ∧
      ({ afterExit with rxPhase := .done } : State).status = .clean ∧ t.status ≠ .clean) := by
  exact ⟨⟨_, rfl, by decide, by decide⟩, _, rfl, by decide, by decide⟩

theorem witness_EnablingTable :
    enabled .rxNone atPoll ∧ ¬ enabled .rxNone s0 ∧ enabled .rxCheck s0 ∧ enabled (.txEmpty .ok) s0 ∧
    (agentOf .rxNone = some .rx ∧ isPoll .rxNone = true) ∧ (agentOf .rxCheck = some .rx ∧ isPoll .rxCheck = false) ∧
    agentOf (.txEmpty .ok) = some .tx ∧ agentOf .reset = none := by
  simp [enabled, agentOf, isPoll, atPoll, s0, State.reset, State.resetWith]

/-- Also for ExitSetsTerm. -/
theorem witness_EmptyLineIsNoOp : s0.fatal = false ∧ s0.txPhase = .read := by decide

theorem witness_ExitSetsTerm : s0.fatal = false ∧ s0.txPhase = .read ∧ agentOf (.txSend .ok led1) = some .tx := by decide

/-- The shortest line that is too long, and one with a reserved byte (V118, V119). -/
theorem witness_TooLongLineIsReported :
    s0.fatal = false ∧ s0.txPhase = .read ∧ 3 < led1.length ∧ 0 < 3 ∧ led1 ≠ [0x65, 0x78, 0x69, 0x74] ∧
    4 < ([0x41, 0x24, 0x42, 0x2A, 0x43, 0x44] : Bytes).length := by decide

theorem witness_InvalidLineIsReportedAndDropped :
    s0.fatal = false ∧ s0.txPhase = .read ∧
    (∃ b ∈ ([0x41, 0x2A, 0x42] : Bytes), b = 0x24 ∨ b = 0x2A ∨ b = 0x0D ∨ b = 0x0A) := by decide

/-- A line of exactly LINE_MAX bytes, and one ENC refuses. -/
theorem witness_FrameIsWrittenThenEchoed :
    (bounded 8 4).fatal = false ∧ (bounded 8 4).txPhase = .read ∧ led1 ≠ [] ∧ led1 ≠ [0x65, 0x78, 0x69, 0x74] ∧
    (∀ k, (bounded 8 4).params.lineMax = .fin k → led1.length ≤ k) ∧ enc led1 = .frame led1Frame ∧
    enc [0x41, 0x2A, 0x42] = .invalidPayload [0x41, 0x2A, 0x42] := by
  refine ⟨rfl, rfl, by decide, by decide, ?_, by decide, by decide⟩
  intro k h
  cases h
  decide

theorem witness_WireHoldsWrittenBytesInOrder :
    s0.fatal = false ∧ s0.txPhase = .read ∧ enc led1 = .frame led1Frame ∧ s0.txw.Sublist s0.wire ∧
    ∃ t, step { s0 with port := [⟨0x400, some led1⟩] } = .next t := by
  exact ⟨rfl, rfl, by decide, List.Sublist.refl _, _, rfl⟩

/-- Each class, at LINE_MAX and one byte past it. -/
theorem witness_LineClassSelectsRow :
    (led1 ≠ [] ∧ led1 ≠ [0x65, 0x78, 0x69, 0x74] ∧ ∃ k, Bound.fin 3 = .fin k ∧ k < led1.length) ∧
    (∀ k, Bound.fin 4 = .fin k → led1.length ≤ k) ∧ (∀ k, Bound.inf = .fin k → led1.length ≤ k) := by
  refine ⟨⟨by decide, by decide, 3, rfl, by decide⟩, ?_, ?_⟩
  · intro k h
    cases h
    decide
  · intro k h
    cases h

theorem witness_BootOpensTransportFirst :
    (∃ d, ([[0x41]] : List Bytes) = [d]) ∧ agentOf .rxCheck ≠ none ∧ ([] : List Bytes).length ≠ 1 ∧
    ([[], []] : List Bytes).length ≠ 1 := by
  exact ⟨⟨_, rfl⟩, by decide, by decide, by decide⟩

theorem witness_StatusAndExitCode :
    ({ s0 with fatal := true } : State).fatal = true ∧
    (({ s0 with rxPhase := .done, txPhase := .done } : State).fatal = false ∧
      ({ s0 with rxPhase := .done, txPhase := .done } : State).rxPhase = .done ∧
      ({ s0 with rxPhase := .done, txPhase := .done } : State).txPhase = .done) ∧
    (s0.fatal = false ∧ ¬(s0.rxPhase = .done ∧ s0.txPhase = .done)) := by decide

theorem witness_TermWritersAndReaders :
    (∃ t, exec (.txExit .ok) s0 = .next t ∧ s0.term = false ∧ t.term = true) ∧
    (∃ t, exec .reset afterExit = .next t ∧ afterExit.term = true ∧ t.term = false) ∧
    (∃ t, Instr.rxNone ≠ .rxCheck ∧ exec .rxNone atPoll = .next t) := by
  exact ⟨⟨_, rfl, rfl, rfl⟩, ⟨_, rfl, rfl, rfl⟩, _, by decide, rfl⟩

theorem witness_FatalStopsBothAgents :
    (({ s0 with fatal := true } : State).fatal = true ∧ agentOf .rxCheck ≠ none) ∧
    (∃ t, exec .rxIoerr atPoll = .next t ∧ atPoll.fatal = false ∧ t.fatal = true) ∧
    (∃ t, exec (.txSend .ioerr led1) s0 = .next t ∧ s0.fatal = false ∧ t.fatal = true) ∧
    (∃ t, exec .reset { s0 with fatal := true } = .next t ∧ t.fatal = false) := by
  exact ⟨⟨rfl, by decide⟩, ⟨_, rfl, rfl, rfl⟩, ⟨_, rfl, rfl, rfl⟩, _, rfl, rfl⟩

/-- Also for OutputStreamsOnlyGrow. -/
theorem witness_AgentsKeepToTheirOwnState :
    (∃ t, exec .rxNone atPoll = .next t ∧ agentOf .rxNone = some .rx) ∧
    (∃ t, exec (.txExit .ok) s0 = .next t ∧ agentOf (.txExit .ok) = some .tx) ∧
    (∃ t, exec (.ckAcc 0x45) s0 = .next t ∧ t.ck ≠ s0.ck) := by
  exact ⟨⟨_, rfl, rfl⟩, ⟨_, rfl, rfl⟩, _, rfl, by decide⟩

theorem witness_OutputStreamsOnlyGrow :
    ∃ t, exec (.txSend .ok led1) s0 = .next t ∧ t.con ≠ s0.con ∧ t.txw ≠ s0.txw := by
  exact ⟨_, rfl, by decide, by decide⟩

theorem witness_RecordAccounting :
    (∃ t, exec .rxLf (collecting led1Cr) = .next t ∧ t.con ≠ (collecting led1Cr).con) ∧
    (∃ t, exec (.rxOther 0x48) full = .next t ∧ t.con ≠ full.con) ∧
    (∃ t, exec .rxNone atPoll = .next t ∧ t.con = atPoll.con) := by
  exact ⟨⟨_, rfl, by decide⟩, ⟨_, rfl, by decide⟩, _, rfl, rfl⟩

theorem witness_UnitOpsDoNotDisturbRun :
    isUnitOp (.hexFmt 3) = true ∧ Instr.hexFmt 3 ≠ .ckClr ∧ (∀ b, Instr.hexFmt 3 ≠ .ckAcc b) ∧
    (∃ t, exec .rxCheck s0 = .next t) ∧ (∃ r, exec .rxNone s0 = .fault r) := by
  exact ⟨rfl, nofun, nofun, ⟨_, rfl⟩, _, rfl⟩

theorem witness_DecodeOfEncodeIsInstr : (Instr.txSend .ioerr led1).wf (.fin 4) = true := by decide

theorem witness_EncodeOfDecodeIsEvent : decode (.fin 4) ⟨0x401, some led1⟩ = .ok (.txSend .ioerr led1) := by rfl

/-- Each ground of R77 at a boundary, and a step that refuses. -/
theorem witness_InvalidEventsAreRefused :
    (0xB ≤ (0xB00 : EventWord).toNat / 256 ∧ (0xEFF : EventWord).toNat / 256 ≤ 0xE) ∧
    ((0x001 : EventWord).toNat / 256 ∈ [0x0, 0x2, 0x3, 0x5, 0x9, 0xA, 0xF] ∧ (0x001 : EventWord).toNat % 256 ≠ 0) ∧
    ((0x402 : EventWord).toNat / 256 = 0x4 ∧ 2 ≤ (0x402 : EventWord).toNat % 256) ∧
    ((0x710 : EventWord).toNat / 256 = 0x7 ∧ 16 ≤ (0x710 : EventWord).toNat % 256) ∧
    ({ s0 with port := [⟨0xB00, none⟩] } : State).port = ⟨0xB00, none⟩ :: [] ∧
    decode s0.params.lineMax ⟨0xB00, none⟩ = .error (.reservedClass 0xB) := by
  exact ⟨by decide, by decide, by decide, by decide, rfl, rfl⟩

theorem witness_DecodeAgreesWithOpcodeTable :
    decode .inf ⟨0x10D, none⟩ = .ok (.rxOther 0x0D) ∧
    (⟨"TX.SEND", 0x400, 0xFFE, true⟩ : OpcodeRow) ∈ opcodeTable ∧ (0x401 : EventWord) &&& 0xFFE = 0x400 ∧
    true = (some led1).isSome := by
  exact ⟨rfl, by decide, by decide, rfl⟩

theorem witness_StepRunsDecodedEvent :
    (({ s0 with port := [⟨0x300, none⟩] } : State).port = ⟨0x300, none⟩ :: [] ∧
      decode s0.params.lineMax ⟨0x300, none⟩ = .ok .rxCheck) ∧ s0.port = [] := by
  exact ⟨⟨rfl, rfl⟩, rfl⟩

/-- Collecting `"$A\r"` in a bounded buffer, about to poll. -/
def midFrame : State := { bounded 8 4 with rxPhase := .poll, rsState := .collecting, cand := [0x24, 0x41, 0x0D] }

theorem midFrame_rsmInv : midFrame.RsmInv where
  idle_iff := by decide
  fits := rfl
  starts := fun _ => rfl
  noInnerDollar := by
    intro i hi
    rcases i with _ | _ | _ | i
    · omega
    · decide
    · decide
    · simp [midFrame, State.candRead]
  noInnerCrlf := by
    intro i
    rcases i with _ | _ | _ | i
    · decide
    · decide
    · decide
    · simp [midFrame, State.candRead]

/-- The invariant in a state that is not the reset state, and a step from it. -/
theorem witness_StepKeepsInvariant :
    State.Inv { midFrame with port := [⟨0x10A, none⟩] } ∧
    ∃ t, step { midFrame with port := [⟨0x10A, none⟩] } = .next t := by
  refine ⟨⟨by decide, ?_, ⟨by decide, by decide⟩⟩, _, rfl⟩
  obtain ⟨a, b, c, d, e⟩ := midFrame_rsmInv
  exact ⟨a, b, c, d, e⟩

theorem witness_ResetMeetsInvariant : (bounded 6 1).params.wf = true := by decide

theorem witness_ReachableStatesMeetRsmInvariant :
    (bounded 6 1).params.wf = true ∧
    ∃ t, run 2 { bounded 6 1 with port := rxFeed [0x24] } = .next t ∧ t.rsState = .collecting ∧
      (bounded 6 1).params.candMax = .fin 6 := by
  exact ⟨by decide, _, rfl, rfl, rfl⟩

theorem witness_EmittedFramesAreFramed :
    midFrame.RsmInv ∧ ∃ t, exec .rxLf midFrame = .next t ∧
      t.con = midFrame.con ++ [.rxMalformed [0x24, 0x41, 0x0D, 0x0A]] := by
  exact ⟨midFrame_rsmInv, _, rfl, by decide⟩

/-- A partial frame that overflows CAND_MAX = 8, then `"$A*41\r\n"`; and a second frame of exactly CAND_MAX bytes. -/
theorem witness_ResyncYieldsOnlySecondFrame :
    (bounded 8 4).fatal = false ∧ (bounded 8 4).term = false ∧ (bounded 8 4).rxPhase = .check ∧
    (bounded 8 4).rsState = .idle ∧ (bounded 8 4).cand = [] ∧
    (bounded 8 4).params.candMax.atLeast (([0x41, 0x2A, 0x34, 0x31, 0x41] : Bytes).length + 3) = true ∧
    noCrlfPair (abcdefg ++ [0x48, 0x0D]) ∧ noCrlfPair [0x24, 0x41] ∧
    (bounded 8 4).params.candMax.atLeast ([0x24, 0x41] : Bytes).length = true ∧
    (0x24 : Byte) ∉ ([0x41, 0x2A, 0x34, 0x31] : Bytes) ∧ noCrlfPair ([0x41, 0x2A, 0x34, 0x31] ++ [0x0D]) ∧
    dec (bounded 8 4).params ([0x24] ++ [0x41, 0x2A, 0x34, 0x31] ++ [0x0D, 0x0A]) = .decoded [0x41] 0x41 true := by
  exact ⟨rfl, rfl, rfl, rfl, rfl, rfl, noCrlfPair_of_all (by decide), noCrlfPair_of_all (by decide), by decide, by decide,
    noCrlfPair_of_all (by decide), by decide⟩

theorem witness_IdleNoiseEmitsNothing :
    s0.fatal = false ∧ s0.term = false ∧ s0.rxPhase = .check ∧ s0.rsState = .idle ∧
    (0x24 : Byte) ∉ ([0x78, 0x79, 0x7A, 0x0D, 0x0A, 0x0A] : Bytes) := by decide

/-- A frame of exactly CAND_MAX bytes, fed to a block that is collecting another candidate. -/
theorem witness_FedFrameIsReportedValid :
    (bounded 10 4).fatal = false ∧ (bounded 10 4).term = false ∧ (bounded 10 4).rxPhase = .check ∧
    ({ bounded 10 4 with rsState := .collecting, cand := [0x24, 0x41] } : State).rsState = .collecting ∧
    enc led1 = .frame led1Frame ∧ (bounded 10 4).params.candMax.atLeast (led1.length + 6) = true := by decide

theorem witness_UnboundedMachineAgrees :
    (s0.params.candMax = .inf ∧ ∃ t, exec .rxCheck s0 = .next t) ∧
    (∃ t, exec .rxLf midFrame = .next t ∧ ∀ raw, t.con ≠ midFrame.con ++ [.rxOverflow raw]) := by
  refine ⟨⟨rfl, _, rfl⟩, _, rfl, fun raw h => ?_⟩
  have hc : ([.rxMalformed [0x24, 0x41, 0x0D, 0x0A]] : List Record) = [.rxOverflow raw] := h
  cases hc

theorem afterExit_sessionInv : afterExit.SessionInv where
  term_iff := by decide
  rxDone := by decide

theorem witness_AtMostOnePollAfterExit :
    afterExit.SessionInv ∧ afterExit.term = true ∧ afterExit.rxPhase = .poll ∧
    (∀ e ∈ ([⟨0x10A, none⟩, ⟨0x300, none⟩] : List PortEvent), e.ev ≠ 0xF00) ∧
    ∃ t, run 2 { afterExit with port := [⟨0x10A, none⟩, ⟨0x300, none⟩] } = .next t := by
  exact ⟨afterExit_sessionInv, rfl, rfl, by decide, _, rfl⟩

theorem witness_SessionEndsAfterExit :
    afterExit.SessionInv ∧ afterExit.term = true ∧ afterExit.fatal = false ∧ afterExit.rxPhase = .poll ∧
    ({ afterExit with rxPhase := .check } : State).SessionInv ∧
    ({ afterExit with rxPhase := .check } : State).rxPhase = .check ∧
    isPoll .rxLf = true ∧ Instr.rxLf.wf afterExit.params.lineMax = true ∧ Instr.rxLf ≠ .rxIoerr ∧
    isPoll .rxIoerr = true ∧ Instr.rxIoerr.wf afterExit.params.lineMax = true := by
  exact ⟨afterExit_sessionInv, rfl, rfl, rfl, ⟨by decide, by decide⟩, rfl, rfl, rfl, by decide, rfl, rfl⟩

/-- Two states that differ in everything the clause leaves free. -/
theorem witness_DirectionsAreIndependent :
    (agentOf .rxLf = some .rx ∧ ∃ t, exec .rxLf (collecting led1Cr) = .next t ∧
      ({ collecting led1Cr with txPhase := .done, con := [.txTooLong 9], txw := led1, ck := 0x11 } : State).params =
        (collecting led1Cr).params) ∧
    (agentOf (.txSend .ok led1) = some .tx ∧ ∃ t, exec (.txSend .ok led1) s0 = .next t ∧
      full.fatal = s0.fatal ∧ full.txPhase = s0.txPhase) := by
  exact ⟨⟨rfl, _, rfl, rfl⟩, rfl, _, rfl, rfl, rfl⟩

/-- `exit` is typed at the first step, RX.CHECK runs at the second, and nothing is offered after. -/
def exitOffers : Nat → List PortEvent
  | 0 => [⟨0x400, some [0x65, 0x78, 0x69, 0x74]⟩]
  | 1 => [⟨0x300, none⟩]
  | _ => []

/-- The states of that run; CLEAN from the third on. -/
def exitRun : Nat → State
  | 0 => s0
  | 1 => { s0 with term := true, txPhase := .done }
  | _ => { s0 with term := true, txPhase := .done, rxPhase := .done }

theorem exitRun_progress : ProgressRun exitOffers exitRun where
  steps := by
    intro n
    rcases n with _ | _ | n <;> rfl
  rxFair := by
    intro n h
    rcases n with _ | _ | n
    · exact ⟨1, by omega, .inl ⟨.rxCheck, rfl, rfl⟩⟩
    · exact ⟨1, by omega, .inl ⟨.rxCheck, rfl, rfl⟩⟩
    · exact absurd h Bool.false_ne_true

/-- A line whose write fails at the first step (V116), and nothing offered after. -/
def failOffers : Nat → List PortEvent
  | 0 => [⟨0x401, some led1⟩]
  | _ => []

/-- The states of that run; FATAL from the second on, with the RX agent still at CHECK. -/
def failRun : Nat → State
  | 0 => s0
  | _ => (s0.txWriteFail led1Frame).transportFail

/-- A failed write may end a run: the RX agent loses its step, so the run is fair. -/
theorem test_failRun_progress : ProgressRun failOffers failRun where
  steps := by
    intro n
    rcases n with _ | n <;> rfl
  rxFair := fun n _ => ⟨n + 1, by omega, .inr rfl⟩

theorem witness_RunsEndByExitOrFailure :
    EndlessRun exitOffers exitRun ∧ exitRun 0 = State.resetWith Config.params ∧ (exitRun 2).status ≠ .running ∧
    ProgressRun exitOffers exitRun ∧ (exitRun 0).SessionInv ∧ takenAt exitOffers exitRun 0 = some (.txExit .ok) ∧
    isExit (.txExit .ok) = true ∧ Config.params.wf = true ∧
    (∀ k, 0 ≤ k → takenAt exitOffers exitRun k ≠ some .reset) := by
  refine ⟨exitRun_progress.steps, rfl, by decide, exitRun_progress, ⟨by decide, by decide⟩, rfl, rfl, by decide, ?_⟩
  intro k _
  rcases k with _ | _ | k <;> simp [takenAt, State.taken, State.takeEvent, State.offer, exitOffers, exitRun, s0,
    State.reset, State.resetWith]
  · decide
  · decide

end Sys2Proof.Tests
end

section
/-! What a step takes from the port: one equation for each branch of `step` (00_scope.md R11, 60_exceptions.md R197). -/

namespace Sys2Proof.Machine

variable {s : State} {e : PortEvent} {rest : List PortEvent}

@[simp] theorem takeEvent_of_port_nil (hp : s.port = []) : s.takeEvent = none := by
  rw [State.takeEvent, hp]

@[simp] theorem takeEvent_of_port_cons (hp : s.port = e :: rest) :
    s.takeEvent = some (e, { s with port := rest }) := by
  rw [State.takeEvent, hp]

/-- MODEL'S CHOICE (log 4): the block waits when nothing is offered. -/
theorem step_of_port_nil (hp : s.port = []) : step s = .next s := by
  rw [step, takeEvent_of_port_nil hp]

/-- The event is decoded under the instance's own LINE_MAX, and taken before the instruction runs. -/
theorem step_of_decode_ok {i : Instr} (hp : s.port = e :: rest) (hd : decode s.params.lineMax e = .ok i) :
    step s = exec i { s with port := rest } := by
  simp only [step, takeEvent_of_port_cons hp, hd]

/-- A word that is no event stops the model as a refusal that carries the decoder's reason (30_encoding.md R77). -/
theorem step_of_decode_error {r : DecodeError} (hp : s.port = e :: rest)
    (hd : decode s.params.lineMax e = .error r) : step s = .refused (.notAnEvent r) := by
  simp only [step, takeEvent_of_port_cons hp, hd]

end Sys2Proof.Machine
end

section
namespace Sys2Proof.Machine

/-- Settles O47: its two clauses are `step`'s equations for an offered event that decodes and for an empty port. -/
theorem stepRunsDecodedEvent : Obligations.StepRunsDecodedEvent :=
  fun _ => ⟨fun _ _ _ hp hd => step_of_decode_ok hp hd, step_of_port_nil⟩

end Sys2Proof.Machine
end

section
/-! Every instruction the decoder answers is well-formed (30_encoding.md R64, R72). -/

namespace Sys2Proof

theorem rxByteInstr_wf (m : Bound) (b : Byte) : (rxByteInstr b).wf m = true := by
  cases h : Machine.byteClass b <;> simp [rxByteInstr, Instr.wf, h]

theorem txLineInstr_wf (m : Bound) (w : WriteOutcome) (l : Bytes) : (txLineInstr m w l).wf m = true := by
  cases h : Machine.lineClass m l <;> simp [txLineInstr, Instr.wf, h]

theorem plainEvent_wf {m : Bound} {e : PortEvent} {i j : Instr} (hi : i.wf m = true)
    (h : plainEvent e i = .ok j) : j.wf m = true := by
  obtain ⟨-, rfl⟩ := plainEvent_eq_ok.1 h
  exact hi

theorem operandEvent_wf {m : Bound} {e : PortEvent} {f : Bytes → Instr} {j : Instr}
    (hf : ∀ x, (f x).wf m = true) (h : operandEvent e f = .ok j) : j.wf m = true := by
  obtain ⟨x, -, rfl⟩ := operandEvent_eq_ok.1 h
  exact hf x

theorem decode_wf {m : Bound} {e : PortEvent} {i : Instr} (h : decode m e = .ok i) : i.wf m = true := by
  unfold decode at h
  split at h
  case h_2 => -- RX.BYTE
    exact plainEvent_wf (rxByteInstr_wf m _) h
  case h_5 => -- TX.LINE
    exact operandEvent_wf (txLineInstr_wf m _) (requireZero_eq_ok.1 h).2
  case h_7 | h_9 => -- CK.ACC, HEX.VAL
    exact plainEvent_wf rfl h
  case h_10 | h_11 => -- ENC, DEC
    exact operandEvent_wf (fun _ => rfl) (requireZero_eq_ok.1 h).2
  case h_13 => cases h -- a reserved class
  all_goals exact plainEvent_wf rfl (requireZero_eq_ok.1 h).2

theorem Machine.wf_of_taken {s : Machine.State} {i : Instr} (h : s.taken = some i) :
    i.wf s.params.lineMax = true := by
  unfold Machine.State.taken at h
  split at h
  · cases h
  · next e _ _ =>
    cases hd : decode s.params.lineMax e with
    | error r => rw [hd] at h; cases h
    | ok j =>
      rw [hd] at h
      obtain rfl : j = i := Option.some.inj h
      exact decode_wf hd

end Sys2Proof
end

section
/-! The invariant of a run: each half depends on the fields it speaks of, and every effect keeps it. -/

namespace Sys2Proof.Machine

variable {s t : State} {i : Instr}

theorem State.RsmInv.congr (h : s.RsmInv) (hp : t.params = s.params) (hr : t.rsState = s.rsState)
    (hc : t.cand = s.cand) : t.RsmInv where
  idle_iff := by simpa [hr, hc] using h.idle_iff
  fits := by simpa [hp, hc] using h.fits
  starts := by simpa [hr, hc] using h.starts
  noInnerDollar := by simpa [hc] using h.noInnerDollar
  noInnerCrlf := by simpa [hc] using h.noInnerCrlf

theorem State.SessionInv.congr (h : s.SessionInv) (ht : t.term = s.term) (htx : t.txPhase = s.txPhase)
    (hrx : t.rxPhase = s.rxPhase) : t.SessionInv where
  term_iff := by simpa [ht, htx] using h.term_iff
  rxDone := by simpa [ht, hrx] using h.rxDone

theorem Effect.params_eq (h : Effect s i t) : t.params = s.params := by cases h <;> rfl

theorem atLeast_mono {m : Bound} {j k : Nat} (hjk : j ≤ k) (h : m.atLeast k = true) : m.atLeast j = true := by
  cases m with
  | inf => rfl
  | fin n => exact decide_eq_true (hjk.trans (of_decide_eq_true h))

theorem candMax_atLeast_six {p : Params} (h : p.wf = true) : p.candMax.atLeast 6 = true := by
  simp only [Params.wf, Bool.and_eq_true] at h
  obtain ⟨⟨⟨hcand, -⟩, -⟩, -⟩ := h
  exact hcand

/-- R24. Only a well-formed RX.OTHER keeps (c) and (d): its byte is neither `$` nor LF. -/
theorem Effect.rsmInv {m : Bound} (he : Effect s i t) (hw : i.wf m = true) (hp : s.params.wf = true)
    (h : s.RsmInv) : t.RsmInv := by
  cases he with
  | start => exact (candStart_rsmInv (atLeast_mono (by decide) (candMax_atLeast_six hp))).congr rfl rfl rfl
  | append b _ _ hc hf =>
    obtain ⟨hd, hl⟩ := byteClass_eq_other.1 (eq_of_beq hw)
    exact (candAppend_rsmInv h hc hf hd (absurd · hl)).congr rfl rfl rfl
  | appendLf _ _ hc hf hl => exact (candAppend_rsmInv h hc hf (by decide) fun _ => hl).congr rfl rfl rfl
  | overflow | complete | reset => exact (candClear_rsmInv (s := s)).congr rfl rfl rfl
  | _ => exact h.congr rfl rfl rfl

/-- R168. RX.CHECK enters DONE only when it reads `term = 1`; the end of a poll leaves DONE alone. -/
theorem Effect.sessionInv (he : Effect s i t) (h : s.SessionInv) : t.SessionInv := by
  cases he with
  | none | start | discard | overflow | append | appendLf | complete => exact ⟨h.term_iff, nofun⟩
  | checked => exact ⟨h.term_iff, fun hd => by simpa using hd⟩
  | exit => exact ⟨by simp, by simp⟩
  | reset => exact ⟨by simp, by simp⟩
  | _ => exact h.congr rfl rfl rfl

theorem Effect.inv {m : Bound} (he : Effect s i t) (hw : i.wf m = true) (h : s.Inv) : t.Inv where
  params := he.params_eq ▸ h.params
  rsm := he.rsmInv hw h.params h.rsm
  session := he.sessionInv h.session

/-- What the host offers is no part of the invariant. -/
theorem State.Inv.withPort (h : s.Inv) (es : List PortEvent) : { s with port := es }.Inv where
  params := h.params
  rsm := h.rsm.congr rfl rfl rfl
  session := h.session.congr rfl rfl rfl

theorem step_inv (h : s.Inv) (hs : step s = .next t) : t.Inv := by
  obtain ⟨-, rfl⟩ | ⟨_, rest, i, -, hi, hx⟩ := step_taken hs
  · exact h
  · exact (exec_effect hx).inv (wf_of_taken hi) (h.withPort rest)

/-- Settles O49: the step waits, or it has the effect of a well-formed instruction, which keeps both halves. -/
theorem stepKeepsInvariant : Obligations.StepKeepsInvariant :=
  fun _ _ => step_inv

end Sys2Proof.Machine
end

section
/-! What every run keeps, from the reset state on. -/

namespace Sys2Proof.Machine

variable {s t : State} {n : Nat}

/-- The induction over the steps of a run, once. -/
theorem run_preserves {P : State → Prop} (hstep : ∀ {u v : State}, P u → step u = .next v → P v) (hs : P s)
    (h : run n s = .next t) : P t := by
  induction n generalizing s with
  | zero =>
    obtain rfl : s = t := Host.Outcome.next.inj h
    exact hs
  | succ n ih =>
    obtain ⟨u, hu, ht⟩ := run_succ_eq_next.1 h
    exact ih (hstep hs hu) ht

theorem run_inv (hs : s.Inv) (h : run n s = .next t) : t.Inv := run_preserves step_inv hs h

theorem step_params (h : step s = .next t) : t.params = s.params := by
  obtain ⟨-, rfl⟩ | ⟨_, _, _, -, -, hx⟩ := step_taken h
  · rfl
  · exact (exec_effect hx).params_eq

theorem run_params (h : run n s = .next t) : t.params = s.params :=
  run_preserves (P := fun u => u.params = s.params) (fun hu hv => (step_params hv).trans hu) rfl h

theorem resetWith_inv {p : Params} (hp : p.wf = true) : (State.resetWith p).Inv where
  params := hp
  rsm := (candClear_rsmInv (s := State.resetWith p)).congr rfl rfl rfl
  session := ⟨by simp [State.resetWith], nofun⟩

/-- Settles O50: an empty candidate in IDLE meets R24, and neither loop has ended. -/
theorem resetMeetsInvariant : Obligations.ResetMeetsInvariant :=
  ⟨fun _ => resetWith_inv, resetWith_inv (by decide)⟩

/-- A candidate in progress is not empty (10_state.md R24). -/
theorem State.RsmInv.one_le_length (h : s.RsmInv) (hc : s.rsState = .collecting) : 1 ≤ s.cand.length := by
  have hne : s.cand.length ≠ 0 := fun h0 => by
    rw [h.idle_iff.2 h0] at hc
    cases hc
  omega

theorem State.RsmInv.length_le {k : Nat} (h : s.RsmInv) (hk : s.params.candMax = .fin k) : s.cand.length ≤ k := by
  simpa [exceeds, hk] using h.fits

/-- Settles O51: `Inv` holds at reset and along the run, whatever is offered, and its `RsmInv` is R24. -/
theorem reachableStatesMeetRsmInvariant : Obligations.ReachableStatesMeetRsmInvariant := by
  intro p es n t hp hrun
  have h : t.RsmInv := (run_inv ((resetWith_inv hp).withPort es) hrun).rsm
  have hparams : t.params = p := run_params hrun
  refine ⟨h.idle_iff, fun hc => ⟨h.one_le_length hc, fun k hk => h.length_le ?_, h.starts hc⟩,
    h.noInnerDollar, h.noInnerCrlf⟩
  rw [hparams, hk]

end Sys2Proof.Machine
end

section
/-! `fatal`, and the fields each agent may write (10_state.md R25, R27, R28, R33). -/

namespace Sys2Proof.Machine

variable {s t : State} {i : Instr}

/-- Every RX event is a step of the RX agent at the phase R150 gives it. -/
theorem exec_eq_rxStep (h : agentOf i = some .rx) (s : State) :
    ∃ u, exec i s = rxStep (if isPoll i then .poll else .check) s u := by
  cases i with
  | rxNone | rxDollar | rxLf | rxOther | rxIoerr | rxCheck => exact ⟨_, rfl⟩
  | _ => cases h

/-- Every TX event is a step of the TX agent (R150). -/
theorem exec_eq_txStep (h : agentOf i = some .tx) (s : State) : ∃ u, exec i s = txStep s u := by
  cases i with
  | txEmpty | txExit | txTooLong | txSend => exact ⟨_, rfl⟩
  | _ => cases h

theorem rxStep_of_fatal {p : RxPhase} (h : s.fatal = true) : rxStep p s t = .fault .sessionFatal := by
  rw [rxStep, if_pos h]

theorem txStep_of_fatal (h : s.fatal = true) : txStep s t = .fault .sessionFatal := by
  rw [txStep, if_pos h]

theorem exec_agent_of_fatal (hi : agentOf i ≠ none) (h : s.fatal = true) : exec i s = .fault .sessionFatal := by
  rcases ha : agentOf i with _ | _ | _
  · exact absurd ha hi
  · obtain ⟨u, hu⟩ := exec_eq_rxStep ha s
    rw [hu, rxStep_of_fatal h]
  · obtain ⟨u, hu⟩ := exec_eq_txStep ha s
    rw [hu, txStep_of_fatal h]

/-- Who writes `fatal`, and what. -/
theorem Effect.fatal_cases (h : Effect s i t) :
    t.fatal = s.fatal ∨ (t.fatal = true ∧ (i = .rxIoerr ∨ ∃ l, i = .txSend .ioerr l)) ∨
      (t.fatal = false ∧ i = .reset) := by
  cases h with
  | readFail => exact .inr (.inl ⟨rfl, .inl rfl⟩)
  | writeFail l => exact .inr (.inl ⟨rfl, .inr ⟨l, rfl⟩⟩)
  | reset => exact .inr (.inr ⟨rfl, rfl⟩)
  | _ => exact .inl rfl

/-- Settles O38: the enabling test of either agent reads `fatal` first, and three effects write it. -/
theorem fatalStopsBothAgents : Obligations.FatalStopsBothAgents := by
  refine fun i s => ⟨fun hf ha => exec_agent_of_fatal ha hf, fun t hx hs ht => ?_, fun t hx hs ht => ?_⟩
  · obtain h | ⟨-, h⟩ | ⟨h, -⟩ := (exec_effect hx).fatal_cases
    · simp_all
    · exact h
    · simp_all
  · obtain h | ⟨h, -⟩ | ⟨-, h⟩ := (exec_effect hx).fatal_cases
    · simp_all
    · simp_all
    · exact h

theorem Effect.rx_frame (h : Effect s i t) (ha : agentOf i = some .rx) :
    { t with rsState := s.rsState, cand := s.cand, fatal := s.fatal, rxPhase := s.rxPhase, con := s.con } = s := by
  cases h with
  | none | start | discard | overflow | append | appendLf | complete | readFail | checked => rfl
  | _ => cases ha

theorem Effect.tx_frame (h : Effect s i t) (ha : agentOf i = some .tx) :
    { t with term := s.term, fatal := s.fatal, txPhase := s.txPhase, con := s.con, txw := s.txw,
             wire := s.wire, draws := s.draws } = s := by
  cases h with
  | empty | exit | tooLong | invalid | written | writeFail => rfl
  | discard _ _ hb | overflow _ _ hb => cases hb <;> cases ha
  | _ => cases ha

theorem Effect.ck_cases (h : Effect s i t) : t.ck = s.ck ∨ i = .ckClr ∨ (∃ b, i = .ckAcc b) ∨ i = .reset := by
  cases h with
  | ckClr => exact .inr (.inl rfl)
  | ckAcc b => exact .inr (.inr (.inl ⟨b, rfl⟩))
  | reset => exact .inr (.inr (.inr rfl))
  | _ => exact .inl rfl

/-- Settles O39: each effect belongs to one agent or to none, and its named updates leave the other fields. -/
theorem agentsKeepToTheirOwnState : Obligations.AgentsKeepToTheirOwnState := by
  intro i s t hx
  have he : Effect s i t := exec_effect hx
  exact ⟨he.params_eq, he.rx_frame, he.tx_frame, he.ck_cases.resolve_left⟩

end Sys2Proof.Machine
end

section
/-! `term`, `con` and `txw`: what each instruction writes to them, and that it reads none of the three (RX.CHECK reads
`term`): the same effect takes place with any other values there (10_state.md R26, R30). -/

namespace Sys2Proof.Machine

variable {s t : State} {i : Instr}

/-- `s` with other values in the fields that an instruction only writes. -/
def State.withOutputs (s : State) (v : Bool) (c : List Record) (x : Bytes) : State :=
  { s with term := v, con := c, txw := x }

/-- `term` after an instruction that finds it at `v` (R26). -/
def termAfter (v : Bool) : Instr → Bool
  | .txExit _ => true
  | .reset => false
  | _ => v

/-- What an instruction appends to `txw`: the frame of a successful write (R30). -/
def sentBytes : Instr → Bytes
  | .txSend .ok l =>
    match enc l with
    | .frame f => f
    | .invalidPayload _ => []
  | _ => []

theorem sentBytes_of_frame {l f : Bytes} (h : enc l = .frame f) : sentBytes (.txSend .ok l) = f := by
  simp only [sentBytes, h]

theorem sentBytes_of_invalid (w : WriteOutcome) {l : Bytes} (h : l.any isReserved = true) :
    sentBytes (.txSend w l) = [] := by
  cases w with
  | ok => simp only [sentBytes, enc_invalid h]
  | ioerr => rfl

theorem eq_txSend_of_sentBytes (h : sentBytes i ≠ []) : ∃ l, i = .txSend .ok l := by
  unfold sentBytes at h
  split at h
  · exact ⟨_, rfl⟩
  · exact absurd rfl h

theorem termAfter_sets {v : Bool} (hv : v = false) (h : termAfter v i = true) : ∃ w, i = .txExit w := by
  unfold termAfter at h
  split at h
  · exact ⟨_, rfl⟩
  · cases h
  · cases hv.symm.trans h

theorem termAfter_clears {v : Bool} (hv : v = true) (h : termAfter v i = false) : i = .reset := by
  unfold termAfter at h
  split at h
  · cases h
  · rfl
  · cases hv.symm.trans h

/-- The effect of `i` from `s` to `t` appends `rs` to `con` and `bs` to `txw`, and happens whatever the three fields
hold; `term` counts for RX.CHECK alone. -/
def Appends (s : State) (i : Instr) (t : State) (rs : List Record) (bs : Bytes) : Prop :=
  ∀ v c x, (i = .rxCheck → v = s.term) →
    Effect (s.withOutputs v c x) i (t.withOutputs (termAfter v i) (c ++ rs) (x ++ bs))

/-- An effect that appends to neither stream. -/
theorem appends_nothing (hb : sentBytes i = []) (h : ∀ v c x, (i = .rxCheck → v = s.term) →
    Effect (s.withOutputs v c x) i (t.withOutputs (termAfter v i) c x)) :
    ∃ r : Option Record, Appends s i t r.toList (sentBytes i) :=
  ⟨none, by simpa [Appends, hb] using h⟩

/-- An effect that appends one record. -/
theorem appends_record (r : Record) (hb : sentBytes i = []) (h : ∀ v c x, (i = .rxCheck → v = s.term) →
    Effect (s.withOutputs v c x) i (t.withOutputs (termAfter v i) (c ++ [r]) x)) :
    ∃ r : Option Record, Appends s i t r.toList (sentBytes i) :=
  ⟨some r, by simpa [Appends, hb] using h⟩

theorem sentBytes_of_plainByte (h : PlainByte i) : sentBytes i = [] := by cases h <;> rfl

theorem termAfter_of_plainByte (v : Bool) (h : PlainByte i) : termAfter v i = v := by cases h <;> rfl

/-- Each branch takes place again with the other values, since no condition of `Effect` speaks of them. -/
theorem Effect.appends (h : Effect s i t) : ∃ r : Option Record, Appends s i t r.toList (sentBytes i) := by
  cases h with
  | discard hf hp hb hi =>
    refine appends_nothing (sentBytes_of_plainByte hb) fun v _ _ _ => ?_
    rw [termAfter_of_plainByte v hb]
    exact .discard hf hp hb hi
  | overflow hf hp hb hc hm =>
    refine appends_record (.rxOverflow s.cand) (sentBytes_of_plainByte hb) fun v _ _ _ => ?_
    rw [termAfter_of_plainByte v hb]
    exact .overflow hf hp hb hc hm
  | complete hf hp hc hm hl =>
    exact appends_record (frameRecord s.params (s.cand ++ [chLf])) rfl fun _ _ _ _ => .complete hf hp hc hm hl
  | tooLong w l hf hp => exact appends_record (.txTooLong l.length) rfl fun _ _ _ _ => .tooLong w l hf hp
  | invalid w l hf hp hr =>
    exact appends_record (.txInvalid l) (sentBytes_of_invalid w hr) fun _ _ _ _ => .invalid w l hf hp hr
  | written l hf hp hr =>
    rw [sentBytes_of_frame (enc_frame hr)]
    exact ⟨some (.txEcho l (frameOf l)), fun _ _ _ _ => .written l hf hp hr⟩
  | checked hf hp =>
    refine appends_nothing rfl fun v c x hv => ?_
    obtain rfl : v = s.term := hv rfl
    exact .checked hf hp
  | _ => exact appends_nothing rfl fun _ _ _ _ => by constructor <;> assumption

/-- What an instruction does to `term`, `con` and `txw`, and that it does the same with other values there. -/
theorem exec_outputs (hx : exec i s = .next t) : ∃ r : Option Record,
    t = t.withOutputs (termAfter s.term i) (s.con ++ r.toList) (s.txw ++ sentBytes i) ∧
    ∀ v c x, (i = .rxCheck → v = s.term) →
      exec i (s.withOutputs v c x) = .next (t.withOutputs (termAfter v i) (c ++ r.toList) (x ++ sentBytes i)) := by
  obtain ⟨r, hr⟩ := (exec_effect hx).appends
  refine ⟨r, ?_, fun v c x hv => exec_of_effect (hr v c x hv)⟩
  exact Host.Outcome.next.inj (hx.symm.trans (exec_of_effect (hr s.term s.con s.txw fun _ => rfl)))

/-- Settles O37: `termAfter` names the two writers, and only the effect of RX.CHECK needs the `term` it found. -/
theorem termWritersAndReaders : Obligations.TermWritersAndReaders := by
  refine ⟨fun i s t hx => ?_, fun i s t v hi hx => ?_, fun _ => rfl⟩
  · obtain ⟨_, ht, -⟩ := exec_outputs hx
    have hterm : t.term = termAfter s.term i := congrArg State.term ht
    exact ⟨fun hs h1 => termAfter_sets hs (hterm ▸ h1), fun hs h0 => termAfter_clears hs (hterm ▸ h0)⟩
  · obtain ⟨_, ht, hsame⟩ := exec_outputs hx
    refine ⟨_, hsame v s.con s.txw fun h => absurd h hi, ?_⟩
    conv_rhs => rw [ht]
    rw [congrArg State.term ht]
    rfl

/-- Settles O40: the record and the frame are appended whatever the streams hold, `s`'s own among them. -/
theorem outputStreamsOnlyGrow : Obligations.OutputStreamsOnlyGrow := by
  intro i s t hx
  obtain ⟨r, ht, hsame⟩ := exec_outputs hx
  have hterm : t.term = termAfter s.term i := congrArg State.term ht
  refine ⟨r.toList, sentBytes i, congrArg State.con ht, congrArg State.txw ht, ?_, eq_txSend_of_sentBytes, ?_, ?_⟩
  · cases r <;> simp
  · rintro l f rfl hf
    exact (sentBytes_of_frame hf).symm ▸ rfl
  · refine fun c x => ⟨_, hsame s.term c x fun _ => rfl, rfl, rfl, ?_⟩
    rw [← hterm]
    rfl

end Sys2Proof.Machine
end

section
/-! The reset state and the status, field by field (10_state.md R29, R35; 43_session.md R168). -/

namespace Sys2Proof.Machine

variable {s : State}

theorem status_of_fatal (hf : s.fatal = true) : s.status = .fatal := by
  rw [State.status, if_pos hf]

theorem status_of_bothDone (hf : s.fatal = false) (hrx : s.rxPhase = .done) (htx : s.txPhase = .done) :
    s.status = .clean := by
  simp [State.status, hf, hrx, htx]

theorem status_of_notBothDone (hf : s.fatal = false) (hd : ¬(s.rxPhase = .done ∧ s.txPhase = .done)) :
    s.status = .running := by
  simp only [State.status, hf, hd, Bool.false_eq_true, if_false]

/-- Settles O36: the exit code follows the status in each of its three cases. -/
theorem statusAndExitCode : Obligations.StatusAndExitCode := by
  refine fun s => ⟨fun hf => ?_, fun hf hrx htx => ?_, fun hf hd => ?_⟩
  · have h := status_of_fatal hf
    exact ⟨h, by simp only [State.exitCode, h]⟩
  · have h := status_of_bothDone hf hrx htx
    exact ⟨h, by simp only [State.exitCode, h]⟩
  · have h := status_of_notBothDone hf hd
    exact ⟨h, by simp only [State.exitCode, h]⟩

/-- Settles O34: `State.resetWith` gives each field its reset value, and `State.reset` is it at `Config.params`. -/
theorem runStartsInResetState : Obligations.RunStartsInResetState :=
  ⟨fun p => ⟨.resetWith p, rfl, rfl, rfl, rfl, rfl, rfl, rfl, rfl, rfl, rfl, rfl⟩, Config.params, rfl, rfl, rfl⟩

end Sys2Proof.Machine
end

section
/-! The wire (20_memory.md R47; MODEL'S OWN FIELDS, log 9). -/

namespace Sys2Proof.Machine

variable {s t : State} {i : Instr}

/-- ENC answers a frame for a line without a reserved byte only, and it is that line's frame (41_codec.md R103). -/
theorem enc_eq_frame {l f : Bytes} (h : enc l = .frame f) : l.any isReserved = false ∧ frameOf l = f := by
  cases hr : l.any isReserved with
  | true =>
    rw [enc_invalid hr] at h
    cases h
  | false =>
    rw [enc_frame hr] at h
    exact ⟨rfl, EncResult.frame.inj h⟩

/-- A successful write puts the same frame on both streams, a failed one some bytes on the wire alone. -/
theorem Effect.txw_sublist_wire (he : Effect s i t) (h : s.txw.Sublist s.wire) : t.txw.Sublist t.wire := by
  cases he with
  | written => exact h.append (.refl _)
  | writeFail => exact h.trans (List.sublist_append_left _ _)
  | _ => exact h

/-- Settles O31: the effects of the two write outcomes, and the wire order kept by each effect a step can have. -/
theorem wireHoldsWrittenBytesInOrder : Obligations.WireHoldsWrittenBytesInOrder := by
  refine ⟨fun s l f hf hp hl => ?_, fun s t h hs => ?_⟩
  · obtain ⟨hr, rfl⟩ := enc_eq_frame hl
    exact ⟨⟨_, exec_of_effect (.written l hf hp hr), rfl⟩,
      _, Config.wirePrefix s.draws, exec_of_effect (.writeFail l hf hp hr), rfl⟩
  · obtain ⟨-, rfl⟩ | ⟨_, _, _, -, -, hx⟩ := step_taken hs
    · exact h
    · exact (exec_effect hx).txw_sublist_wire h

end Sys2Proof.Machine
end

section
/-! The two directions share only `term` and `fatal` (20_memory.md R51, 60_exceptions.md R195): an effect of one agent
happens again in any state that holds the same values in the fields this agent reads. -/

namespace Sys2Proof.Machine

variable {s t : State} {i : Instr}

/-- `u` with the fields that the RX agent reads taken from `s`. -/
def State.withReceiveSide (u s : State) : State :=
  { u with
    params := s.params, rsState := s.rsState, cand := s.cand, term := s.term, fatal := s.fatal, rxPhase := s.rxPhase }

/-- `u` with the fields that the TX agent reads taken from `s`. -/
def State.withSendSide (u s : State) : State := { u with fatal := s.fatal, txPhase := s.txPhase }

/-- The conditions and the results of a receive effect speak of the receive side alone; the console of `u` gets the
same records. -/
theorem Effect.rx_transfer (h : Effect s i t) (ha : agentOf i = some .rx) (u : State) :
    ∃ (v : State) (rs : List Record), Effect (u.withReceiveSide s) i v ∧
      v.rsState = t.rsState ∧ v.cand = t.cand ∧ v.rxPhase = t.rxPhase ∧ v.fatal = t.fatal ∧
      t.con = s.con ++ rs ∧ v.con = u.con ++ rs := by
  cases h with
  | none hf hp => exact ⟨_, [], .none hf hp, by simp [State.withReceiveSide]⟩
  | start hf hp => exact ⟨_, [], .start hf hp, by simp [State.withReceiveSide]⟩
  | discard hf hp hb hi => exact ⟨_, [], .discard hf hp hb hi, by simp [State.withReceiveSide]⟩
  | overflow hf hp hb hc hm =>
    exact ⟨_, [.rxOverflow s.cand], .overflow hf hp hb hc hm, by simp [State.withReceiveSide]⟩
  | append b hf hp hc hm => exact ⟨_, [], .append b hf hp hc hm, by simp [State.withReceiveSide]⟩
  | appendLf hf hp hc hm hl => exact ⟨_, [], .appendLf hf hp hc hm hl, by simp [State.withReceiveSide]⟩
  | complete hf hp hc hm hl =>
    exact ⟨_, [frameRecord s.params (s.cand ++ [chLf])], .complete hf hp hc hm hl, by simp [State.withReceiveSide]⟩
  | readFail hf hp => exact ⟨_, [], .readFail hf hp, by simp [State.withReceiveSide]⟩
  | checked hf hp =>
    exact ⟨_, [], .checked hf hp, rfl, rfl, rfl, rfl, (List.append_nil _).symm, (List.append_nil _).symm⟩
  | _ => cases ha

/-- The records and the bytes are functions of the instruction, so `u` gets the same ones. -/
theorem Effect.tx_transfer (h : Effect s i t) (ha : agentOf i = some .tx) (u : State) :
    ∃ (v : State) (rs : List Record) (bs : Bytes), Effect (u.withSendSide s) i v ∧
      v.txPhase = t.txPhase ∧ v.fatal = t.fatal ∧ t.con = s.con ++ rs ∧ v.con = u.con ++ rs ∧
      t.txw = s.txw ++ bs ∧ v.txw = u.txw ++ bs := by
  cases h with
  | empty w hf hp => exact ⟨_, [], [], .empty w hf hp, by simp [State.withSendSide]⟩
  | exit w hf hp => exact ⟨_, [], [], .exit w hf hp, by simp [State.withSendSide]⟩
  | tooLong w l hf hp =>
    exact ⟨_, [.txTooLong l.length], [], .tooLong w l hf hp, by simp [State.withSendSide]⟩
  | invalid w l hf hp hr => exact ⟨_, [.txInvalid l], [], .invalid w l hf hp hr, by simp [State.withSendSide]⟩
  | written l hf hp hr =>
    exact ⟨_, [.txEcho l (frameOf l)], frameOf l, .written l hf hp hr, by simp [State.withSendSide]⟩
  | writeFail l hf hp hr => exact ⟨_, [], [], .writeFail l hf hp hr, by simp [State.withSendSide]⟩
  | discard _ _ hb | overflow _ _ hb => cases hb <;> cases ha
  | _ => cases ha

/-- Settles O59: a state that agrees with `s` on what the agent reads is itself with that side taken from `s`. -/
theorem directionsAreIndependent : Obligations.DirectionsAreIndependent := by
  refine ⟨fun i s u t ha hx hparams hrs hcand hterm hfatal hrx => ?_, fun i s u t ha hx hfatal htx => ?_⟩
  · have hu : u.withReceiveSide s = u := by
      rw [State.withReceiveSide, ← hparams, ← hrs, ← hcand, ← hterm, ← hfatal, ← hrx]
    obtain ⟨v, rs, he, hv⟩ := (exec_effect hx).rx_transfer ha u
    rw [hu] at he
    exact ⟨v, rs, exec_of_effect he, hv⟩
  · have hu : u.withSendSide s = u := by
      rw [State.withSendSide, ← hfatal, ← htx]
    obtain ⟨v, rs, bs, he, hv⟩ := (exec_effect hx).tx_transfer ha u
    rw [hu] at he
    exact ⟨v, rs, bs, exec_of_effect he, hv⟩

end Sys2Proof.Machine
end

section
/-! Encoding and decoding are inverse to each other, class by class (30_encoding.md R75, R76). -/

namespace Sys2Proof

theorem evClass_toNat (ev : EventWord) : (evClass ev).toNat = ev.toNat / 256 := by
  simp only [evClass, BitVec.extractLsb'_toNat, Nat.shiftRight_eq_div_pow]
  omega

theorem evData_toNat (ev : EventWord) : (evData ev).toNat = ev.toNat % 256 := by
  simp only [evData, BitVec.extractLsb'_toNat, Nat.shiftRight_zero, Nat.reducePow]

/-- The upper bits `ev[7:k]` of the data are 0 exactly when the data is below `2 ^ k`. -/
theorem upperData_eq_zero_iff (ev : EventWord) {k n : Nat} (h : k + n = 8) :
    ev.extractLsb' k n = 0 ↔ (evData ev).toNat < 2 ^ k := by
  have hsplit : 256 = 2 ^ k * 2 ^ n := by rw [← Nat.pow_add, h]
  rw [← BitVec.toNat_inj, evData_toNat, hsplit, BitVec.extractLsb'_toNat, Nat.shiftRight_eq_div_pow,
    ← Nat.mod_mul_right_div_self]
  simp [Nat.div_eq_zero_iff]

theorem encode_rxByteInstr (b : Byte) : encode (rxByteInstr b) = ⟨evWord 0x1 b, none⟩ := by
  cases h : Machine.byteClass b with
  | dollar =>
    obtain rfl := Machine.byteClass_eq_dollar.1 h
    rfl
  | lf =>
    obtain rfl := Machine.byteClass_eq_lf.1 h
    rfl
  | other => simp only [rxByteInstr, h, encode]

theorem encode_txLineInstr (m : Bound) (w : WriteOutcome) (l : Bytes) :
    encode (txLineInstr m w l) = ⟨evWord 0x4 (writeData w), some l⟩ := by
  cases h : Machine.lineClass m l with
  | empty =>
    obtain rfl := Machine.lineClass_eq_empty.1 h
    rfl
  | exit =>
    obtain rfl := Machine.lineClass_eq_exit.1 h
    rfl
  | tooLong | send => simp only [txLineInstr, h, encode]

theorem encode_of_plainEvent {e : PortEvent} {i j : Instr} (hi : encode i = ⟨e.ev, none⟩)
    (h : plainEvent e i = .ok j) : encode j = e := by
  obtain ⟨ho, rfl⟩ := plainEvent_eq_ok.1 h
  rw [hi, ← ho]

theorem encode_of_operandEvent {e : PortEvent} {f : Bytes → Instr} {j : Instr}
    (hf : ∀ x, encode (f x) = ⟨e.ev, some x⟩) (h : operandEvent e f = .ok j) : encode j = e := by
  obtain ⟨x, ho, rfl⟩ := operandEvent_eq_ok.1 h
  rw [hf, ← ho]

/-- A word is its class, read off as a number, and its data (R75). -/
theorem evWord_of_class {ev : EventWord} {c : Nibble} {k : Nat} (hk : (evClass ev).toNat = k) (hc : c.toNat = k) :
    evWord c (evData ev) = ev := by
  rw [BitVec.eq_of_toNat_eq (hc.trans hk.symm), evWord_evClass_evData]

theorem writeData_evWrite_toNat (ev : EventWord) : (writeData (evWrite ev)).toNat = ev.toNat % 2 := by
  rw [evWrite, BitVec.getLsbD, Nat.testBit_zero]
  obtain h | h := Nat.mod_two_eq_zero_or_one ev.toNat <;> simp [h, writeData]

theorem writeData_evWrite {ev : EventWord} (h : ev.extractLsb' 1 7 = 0) : writeData (evWrite ev) = evData ev := by
  have hlt : (evData ev).toNat < 2 ^ 1 := (upperData_eq_zero_iff ev rfl).1 h
  have hd := evData_toNat ev
  apply BitVec.eq_of_toNat_eq
  rw [writeData_evWrite_toNat]
  omega

theorem setWidth_lowNibble {ev : EventWord} (h : ev.extractLsb' 4 4 = 0) :
    (ev.extractLsb' 0 4).setWidth 8 = evData ev := by
  have hlt : (evData ev).toNat < 2 ^ 4 := (upperData_eq_zero_iff ev rfl).1 h
  have hd := evData_toNat ev
  apply BitVec.eq_of_toNat_eq
  simp only [BitVec.toNat_setWidth, BitVec.extractLsb'_toNat, Nat.shiftRight_zero]
  omega

theorem encode_of_decode {m : Bound} {e : PortEvent} {i : Instr} (h : decode m e = .ok i) : encode i = e := by
  unfold decode at h
  split at h
  case h_2 hc => -- RX.BYTE
    exact encode_of_plainEvent (by rw [encode_rxByteInstr, evWord_of_class hc rfl]) h
  case h_5 hc => -- TX.LINE
    obtain ⟨hz, ho⟩ := requireZero_eq_ok.1 h
    refine encode_of_operandEvent (fun x => ?_) ho
    rw [encode_txLineInstr, writeData_evWrite hz, evWord_of_class hc rfl]
  case h_7 hc | h_9 hc => -- CK.ACC, HEX.VAL
    exact encode_of_plainEvent (by rw [encode, evWord_of_class hc rfl]) h
  case h_8 hc => -- HEX.FMT
    obtain ⟨hz, ho⟩ := requireZero_eq_ok.1 h
    exact encode_of_plainEvent (by rw [encode, setWidth_lowNibble hz, evWord_of_class hc rfl]) ho
  case h_10 hc | h_11 hc => -- ENC, DEC
    obtain ⟨hz, ho⟩ := requireZero_eq_ok.1 h
    exact encode_of_operandEvent (fun x => by rw [encode, ← hz, evWord_of_class hc rfl]) ho
  case h_13 => cases h -- a reserved class
  case h_1 hc | h_3 hc | h_4 hc | h_6 hc | h_12 hc => -- no data, no side operand
    obtain ⟨hz, ho⟩ := requireZero_eq_ok.1 h
    exact encode_of_plainEvent (by rw [encode, ← hz, evWord_of_class hc rfl]) ho

theorem decode_rxByte (m : Bound) (b : Byte) : decode m ⟨evWord 0x1 b, none⟩ = .ok (rxByteInstr b) := by
  simp [decode, plainEvent]

theorem decode_txLine (m : Bound) (w : WriteOutcome) (l : Bytes) :
    decode m ⟨evWord 0x4 (writeData w), some l⟩ = .ok (txLineInstr m w l) := by
  have hz : (writeData w).extractLsb' 1 7 = 0 := by cases w <;> rfl
  simp [decode, operandEvent, requireZero, hz]

theorem decode_encode {m : Bound} {i : Instr} (h : i.wf m = true) : decode m (encode i) = .ok i := by
  cases i with
  | rxOther b =>
    have hb : Machine.byteClass b = .other := by simpa [Instr.wf] using h
    rw [encode, decode_rxByte, rxByteInstr, hb]
  | txTooLong w l =>
    have hl : Machine.lineClass m l = .tooLong := by simpa [Instr.wf] using h
    rw [encode, decode_txLine, txLineInstr, hl]
  | txSend w l =>
    have hl : Machine.lineClass m l = .send := by simpa [Instr.wf] using h
    rw [encode, decode_txLine, txLineInstr, hl]
  | txEmpty w => rw [encode, decode_txLine]; rfl
  | txExit w => rw [encode, decode_txLine]; rfl
  | hexFmt n =>
    have hz : (n.setWidth 8).extractLsb' 4 4 = 0 := by ext j hj; simp
    have hn : (n.setWidth 8).extractLsb' 0 4 = n := by ext j hj; simp [hj, show j < 8 by omega]
    simp [encode, decode, requireZero, plainEvent, hz, hn]
  | ckAcc b | hexVal b => simp [encode, decode, plainEvent]
  | enc x | dec x => simp [encode, decode, requireZero, operandEvent]
  | _ => rfl

/-- Settles O43: each class of event gives its operands back. -/
theorem decodeOfEncodeIsInstr : Obligations.DecodeOfEncodeIsInstr := fun _ _ => decode_encode

/-- Settles O44: each class of event is rebuilt from its class, its data and its operand. -/
theorem encodeOfDecodeIsEvent : Obligations.EncodeOfDecodeIsEvent :=
  fun _ _ _ h => ⟨decode_wf h, encode_of_decode h⟩

end Sys2Proof
end

section
/-! Which events are valid: the data is one of its class's values and the side operand is there exactly when the class
takes one (30_encoding.md R76, R77). The rows of spec/opcode_table.json describe the same words. -/

namespace Sys2Proof

/-- How many values `ev[7:0]` has in a valid event of a class, from 0 up (R76); none for a reserved class. -/
def dataValues : Nat → Nat
  | 0x1 | 0x6 | 0x8 => 256
  | 0x4 => 2
  | 0x7 => 16
  | 0x0 | 0x2 | 0x3 | 0x5 | 0x9 | 0xA | 0xF => 1
  | _ => 0

theorem plainEvent_isOk {e : PortEvent} {i : Instr} : (∃ j, plainEvent e i = .ok j) ↔ e.opnd.isSome = false := by
  simp [plainEvent_eq_ok]

theorem operandEvent_isOk {e : PortEvent} {f : Bytes → Instr} :
    (∃ j, operandEvent e f = .ok j) ↔ e.opnd.isSome = true := by
  simp [operandEvent_eq_ok, Option.isSome_iff_exists]

theorem requireZero_isOk {e : PortEvent} {k n : Nat} {r : Except DecodeError Instr} (h : k + n = 8) :
    (∃ j, requireZero e (e.ev.extractLsb' k n) r = .ok j) ↔ (evData e.ev).toNat < 2 ^ k ∧ ∃ j, r = .ok j := by
  simp only [requireZero_eq_ok, exists_and_left, upperData_eq_zero_iff e.ev h]

theorem takesOperand_iff {c : Nibble} : takesOperand c = true ↔ c.toNat ∈ [0x4, 0x9, 0xA] := by
  simp [takesOperand, ← BitVec.toNat_inj, or_assoc]

theorem takesOperand_of_class {c : Nibble} {k : Nat} (h : c.toNat = k) :
    takesOperand c = decide (k ∈ [0x4, 0x9, 0xA]) := by
  rw [Bool.eq_iff_iff, takesOperand_iff, h, decide_eq_true_iff]

/-- The operand is missing for TX.LINE, ENC or DEC, or present for another class (R77). -/
theorem isSome_ne_takesOperand_iff {o : Option Bytes} {c : Nibble} : ¬o.isSome = takesOperand c ↔
    (c.toNat ∈ [0x4, 0x9, 0xA] ∧ o = none) ∨ (c.toNat ∉ [0x4, 0x9, 0xA] ∧ o ≠ none) := by
  rw [← takesOperand_iff]
  cases o <;> cases takesOperand c <;> simp

theorem decode_isOk {m : Bound} {e : PortEvent} : (∃ i, decode m e = .ok i) ↔
    (evData e.ev).toNat < dataValues (evClass e.ev).toNat ∧ e.opnd.isSome = takesOperand (evClass e.ev) := by
  unfold decode
  split
  case h_2 hc | h_7 hc | h_9 hc => -- RX.BYTE, CK.ACC, HEX.VAL
    rw [plainEvent_isOk, hc, takesOperand_of_class hc]
    exact (and_iff_right (evData e.ev).isLt).symm
  case h_5 hc => -- TX.LINE
    rw [requireZero_isOk rfl, operandEvent_isOk, hc, takesOperand_of_class hc]
    rfl
  case h_8 hc => -- HEX.FMT
    rw [requireZero_isOk rfl, plainEvent_isOk, hc, takesOperand_of_class hc]
    rfl
  case h_10 hc | h_11 hc => -- ENC, DEC
    rw [evData, requireZero_isOk rfl, operandEvent_isOk, hc, takesOperand_of_class hc]
    rfl
  case h_13 => -- a reserved class, which has no data value
    simp [dataValues]
  case h_1 hc | h_3 hc | h_4 hc | h_6 hc | h_12 hc => -- no data, no side operand
    rw [evData, requireZero_isOk rfl, plainEvent_isOk, hc, takesOperand_of_class hc]
    rfl

theorem decode_isError {m : Bound} {e : PortEvent} : (∃ r, decode m e = .error r) ↔ ¬∃ i, decode m e = .ok i := by
  cases decode m e <;> simp

theorem dataValues_le_iff {c d : Nat} (hc : c < 16) (hd : d < 256) : dataValues c ≤ d ↔
    (0xB ≤ c ∧ c ≤ 0xE) ∨ (c ∈ [0x0, 0x2, 0x3, 0x5, 0x9, 0xA, 0xF] ∧ d ≠ 0) ∨ (c = 0x4 ∧ 2 ≤ d) ∨
      (c = 0x7 ∧ 16 ≤ d) := by
  simp only [List.mem_cons, List.not_mem_nil, or_false]
  unfold dataValues
  split
  case h_13 => -- no class of data
    simp only [imp_false] at *
    omega
  all_goals omega

/-- Settles O45: `decode_isOk` negated, with class and data as numbers. -/
theorem invalidEventsAreRefused : Obligations.InvalidEventsAreRefused := by
  refine ⟨fun m e => ?_, fun s e rest r hp hd => Machine.step_of_decode_error hp hd⟩
  have hclass : e.ev.toNat / 256 < 16 := evClass_toNat e.ev ▸ (evClass e.ev).isLt
  have hdata : e.ev.toNat % 256 < 256 := Nat.mod_lt _ (by omega)
  rw [decode_isError, decode_isOk, not_and_or, not_lt, isSome_ne_takesOperand_iff, evClass_toNat, evData_toNat,
    dataValues_le_iff hclass hdata]
  simp only [or_assoc]

/-- A word under a mask is at most the bits it has there and every bit the mask leaves open. -/
theorem toNat_le_of_and_eq {n : Nat} {d mask pattern : BitVec n} (h : d &&& mask = pattern) :
    d.toNat ≤ pattern.toNat + (~~~mask).toNat := by
  have hdisj : (d &&& mask) &&& (d &&& ~~~mask) = 0 := by
    ext i hi
    cases hb : mask[i] <;> simp [hb]
  have hsum : (d &&& mask) + (d &&& ~~~mask) = d := by
    rw [BitVec.add_eq_or_of_and_eq_zero _ _ hdisj]
    ext i hi
    cases hb : mask[i] <;> simp [hb]
  calc d.toNat = ((d &&& mask) + (d &&& ~~~mask)).toNat := by rw [hsum]
    _ ≤ (d &&& mask).toNat + (d &&& ~~~mask).toNat := by rw [BitVec.toNat_add]; exact Nat.mod_le _ _
    _ ≤ pattern.toNat + (~~~mask).toNat := by
      rw [h, BitVec.toNat_and d (~~~mask)]
      exact Nat.add_le_add_left Nat.and_le_right _

/-- Each row fixes the whole class, takes the operand of that class, and lets through only values of its data. -/
theorem opcodeTable_rows : ∀ r ∈ opcodeTable, evClass r.mask = 0xF ∧ r.operand = takesOperand (evClass r.pattern) ∧
    (evData r.pattern).toNat + (~~~evData r.mask).toNat < dataValues (evClass r.pattern).toNat := by
  decide

theorem decode_isOk_of_row {m : Bound} {e : PortEvent} {r : OpcodeRow} (hr : r ∈ opcodeTable)
    (hfit : e.ev &&& r.mask = r.pattern) (ho : r.operand = e.opnd.isSome) : ∃ i, decode m e = .ok i := by
  obtain ⟨hmask, hop, hdata⟩ := opcodeTable_rows r hr
  have hcls : evClass e.ev = evClass r.pattern := by
    rw [← hfit, evClass, evClass, BitVec.extractLsb'_and]
    change _ = _ &&& evClass r.mask
    rw [hmask]
    exact BitVec.and_allOnes.symm
  have hd : evData e.ev &&& evData r.mask = evData r.pattern := by
    rw [← hfit]
    exact BitVec.extractLsb'_and.symm
  rw [decode_isOk, hcls]
  exact ⟨(toNat_le_of_and_eq hd).trans_lt hdata, ho.symm.trans hop⟩

theorem encode_fitsRow (i : Instr) : Laws.EncodeFitsRow.Statement i := by
  cases i with
  | rxNone => exact Laws.EncodeFitsRow.rxNone
  | rxDollar => exact Laws.EncodeFitsRow.rxDollar
  | rxLf => exact Laws.EncodeFitsRow.rxLf
  | rxOther b => exact Laws.EncodeFitsRow.rxOther b
  | rxIoerr => exact Laws.EncodeFitsRow.rxIoerr
  | rxCheck => exact Laws.EncodeFitsRow.rxCheck
  | txEmpty w => exact Laws.EncodeFitsRow.txEmpty w
  | txExit w => exact Laws.EncodeFitsRow.txExit w
  | txTooLong w l => exact Laws.EncodeFitsRow.txTooLong w l
  | txSend w l => exact Laws.EncodeFitsRow.txSend w l
  | ckClr => exact Laws.EncodeFitsRow.ckClr
  | ckAcc b => exact Laws.EncodeFitsRow.ckAcc b
  | hexFmt n => exact Laws.EncodeFitsRow.hexFmt n
  | hexVal c => exact Laws.EncodeFitsRow.hexVal c
  | enc p => exact Laws.EncodeFitsRow.enc p
  | dec f => exact Laws.EncodeFitsRow.dec f
  | reset => exact Laws.EncodeFitsRow.reset

/-- Settles O46: a decoded event is the event of its instruction, which fits its row; and a row admits valid data only. -/
theorem decodeAgreesWithOpcodeTable : Obligations.DecodeAgreesWithOpcodeTable := by
  refine ⟨fun m e i h => ?_, fun m e r hr hfit ho => decode_isOk_of_row hr hfit ho⟩
  obtain ⟨r, hr, hname, hfit, ho⟩ := encode_fitsRow i
  rw [encode_of_decode h] at hfit ho
  exact ⟨r, hr, hname, eq_of_beq hfit, ho⟩

end Sys2Proof
end

section
/-! The rows of TX.LINE, and words of R78. -/

namespace Sys2Proof

/-- The two TX.LINE words (R76). -/
theorem decode_txLineWord (m : Bound) (w : WriteOutcome) (l : Bytes) :
    decode m ⟨if w = .ok then 0x400 else 0x401, some l⟩ = .ok (txLineInstr m w l) := by
  rw [← decode_txLine]
  cases w <;> rfl

theorem Machine.exceeds_eq_false {m : Bound} {n : Nat} : Machine.exceeds m n = false ↔ ∀ k, m = .fin k → n ≤ k := by
  rw [← Bool.not_eq_true, Machine.exceeds_iff]
  simp

/-- Settles O32: the class of the line is decided in the order of R72, and `txLineInstr` gives each class its row. -/
theorem lineClassSelectsRow : Obligations.LineClassSelectsRow := by
  intro m w l
  simp only [decode_txLineWord, txLineInstr]
  refine ⟨fun h => ?_, fun h => ?_, fun h0 hx hlong => ?_, fun h0 hx hfit => ?_⟩
  · rw [Machine.lineClass_eq_empty.2 h]
  · rw [Machine.lineClass_eq_exit.2 h]
  · rw [Machine.lineClass_eq_tooLong.2 ⟨h0, hx, Machine.exceeds_iff.2 hlong⟩]
  · rw [Machine.lineClass_eq_send.2 ⟨h0, hx, Machine.exceeds_eq_false.2 hfit⟩]

/-- Settles O48: each word is the event that `encode` gives the instruction. -/
theorem specWordsDecode : Obligations.SpecWordsDecode :=
  ⟨decode_encode (i := .rxNone) rfl, decode_encode (i := .rxOther 0x41) rfl, decode_encode (i := .rxCheck) rfl,
    decode_encode (m := .fin 4) (i := .txSend .ioerr [0x4C, 0x45, 0x44, 0x31]) rfl,
    decode_encode (i := .ckAcc 0x45) rfl, decode_encode (i := .hexFmt 0xC) rfl, decode_encode (i := .reset) rfl⟩

end Sys2Proof
end

section
/-! The unit operations: what they write, and that no effect and no fault depends on it
(30_encoding.md R80). -/

namespace Sys2Proof.Machine

variable {s t : State} {i : Instr}

/-- Settles O16: the result of each of the four is the one that `answer` appends. -/
theorem unitResultsReachTester : Obligations.UnitResultsReachTester := fun _ _ _ _ => ⟨rfl, rfl, rfl, rfl⟩

theorem exec_hexVal_frame (c : Byte) (s : State) :
    ∃ t : State, exec (.hexVal c) s = .next t ∧ { t with tester := s.tester } = s := ⟨_, rfl, rfl⟩

theorem exec_dec_frame (f : Bytes) (s : State) :
    ∃ t : State, exec (.dec f) s = .next t ∧ { t with tester := s.tester } = s := ⟨_, rfl, rfl⟩

/-- `s` with other values in the fields that unit operations write. -/
def State.withUnitFields (s : State) (k : Byte) (rs : List UnitResult) : State := { s with ck := k, tester := rs }

/-- Each unit operation answers a next state, and writes its two fields only. -/
theorem exec_unitOp {u : Instr} (hu : isUnitOp u = true) (s : State) : ∃ k rs,
    exec u s = .next (s.withUnitFields k rs) ∧ (u ≠ .ckClr → (∀ b, u ≠ .ckAcc b) → k = s.ck) := by
  cases u with
  | ckClr => exact ⟨_, _, rfl, fun h => absurd rfl h⟩
  | ckAcc b => exact ⟨_, _, rfl, fun _ h => absurd rfl (h b)⟩
  | hexFmt | hexVal | enc | dec => exact ⟨_, _, rfl, fun _ _ => rfl⟩
  | _ => cases hu

/-- No condition of an effect speaks of the two fields, and no other field's new value depends on them. -/
theorem Effect.withUnitFields (h : Effect s i t) (k : Byte) (rs : List UnitResult) :
    ∃ k' rs', Effect (s.withUnitFields k rs) i (t.withUnitFields k' rs') := by
  cases h with
  | discard hf hp hb hi => exact ⟨k, rs, .discard hf hp hb hi⟩
  | overflow hf hp hb hc hm => exact ⟨k, rs, .overflow hf hp hb hc hm⟩
  | ckClr => exact ⟨_, rs, .ckClr⟩
  | ckAcc b => exact ⟨_, rs, .ckAcc b⟩
  | hexFmt n => exact ⟨k, _, .hexFmt n⟩
  | hexVal c => exact ⟨k, _, .hexVal c⟩
  | enc p => exact ⟨k, _, .enc p⟩
  | dec f => exact ⟨k, _, .dec f⟩
  | reset => exact ⟨_, rs, .reset⟩
  | _ => exact ⟨k, rs, by constructor <;> assumption⟩

/-- Only the events of the two agents can be stuck (R150). -/
theorem agentOf_ne_none_of_fault {r : Fault} (h : exec i s = .fault r) : agentOf i ≠ none := by
  cases i with
  | ckClr | ckAcc | hexFmt | hexVal | enc | dec | reset => cases h
  | _ => exact nofun

theorem rxStep_fault_congr {p : RxPhase} {r : Fault} {s' t' : State} (hf : s'.fatal = s.fatal)
    (hp : s'.rxPhase = s.rxPhase) (h : rxStep p s t = .fault r) : rxStep p s' t' = .fault r := by
  unfold rxStep at h ⊢
  rw [hf, hp]
  split_ifs at h ⊢ <;> exact h

theorem txStep_fault_congr {r : Fault} {s' t' : State} (hf : s'.fatal = s.fatal)
    (hp : s'.txPhase = s.txPhase) (h : txStep s t = .fault r) : txStep s' t' = .fault r := by
  unfold txStep at h ⊢
  rw [hf, hp]
  split_ifs at h ⊢ <;> exact h

/-- Whether an event is stuck, and why, depends on `fatal` and the phases only (R150). -/
theorem exec_fault_congr {r : Fault} {s' : State} (hf : s'.fatal = s.fatal) (hrx : s'.rxPhase = s.rxPhase)
    (htx : s'.txPhase = s.txPhase) (h : exec i s = .fault r) : exec i s' = .fault r := by
  rcases ha : agentOf i with _ | _ | _
  · exact absurd ha (agentOf_ne_none_of_fault h)
  · obtain ⟨t, ht⟩ := exec_eq_rxStep ha s
    obtain ⟨t', ht'⟩ := exec_eq_rxStep ha s'
    rw [ht']
    exact rxStep_fault_congr hf hrx (ht ▸ h)
  · obtain ⟨t, ht⟩ := exec_eq_txStep ha s
    obtain ⟨t', ht'⟩ := exec_eq_txStep ha s'
    rw [ht']
    exact txStep_fault_congr hf htx (ht ▸ h)

/-- Settles O42: a unit operation changes two fields on which no effect and no fault depends. -/
theorem unitOpsDoNotDisturbRun : Obligations.UnitOpsDoNotDisturbRun := by
  intro u s hu
  obtain ⟨k, rs, hx, hk⟩ := exec_unitOp hu s
  refine ⟨_, hx, rfl, hk, fun i => ⟨fun t ht => ?_, fun r hr => exec_fault_congr (s := s) rfl rfl rfl hr⟩⟩
  obtain ⟨k', rs', he⟩ := (exec_effect ht).withUnitFields k rs
  exact ⟨_, exec_of_effect he, rfl⟩

end Sys2Proof.Machine
end

section
/-! The hex digits (30_encoding.md R62; 41_codec.md R101). -/

namespace Sys2Proof.Machine

variable {h : HexLower} {c : Byte}

theorem isHex_iff : isHex h c = true ↔ (0x30 ≤ c.toNat ∧ c.toNat ≤ 0x39) ∨ (0x41 ≤ c.toNat ∧ c.toNat ≤ 0x46) ∨
    (h = .accept ∧ 0x61 ≤ c.toNat ∧ c.toNat ≤ 0x66) := by
  simp [isHex, BitVec.le_def, and_assoc, or_assoc]

theorem hexVal_of_not_isHex (hc : isHex h c = false) : hexVal h c = none := by rw [hexVal, if_pos hc]

/-- The value of a hex digit is its distance from the base of its range, which fits in 4 bits. -/
theorem hexVal_toNat (hc : isHex h c = true) : (hexVal h c).map BitVec.toNat = some
    (if c.toNat ≤ 0x39 then c.toNat - 0x30 else if c.toNat ≤ 0x46 then c.toNat - 0x37 else c.toNat - 0x57) := by
  have hr := isHex_iff.1 hc
  simp only [hexVal, hc, Bool.true_eq_false, if_false, BitVec.le_def, BitVec.ofNat_eq_ofNat,
    BitVec.toNat_ofNat, Nat.reducePow, Nat.reduceMod]
  split_ifs <;> simp [BitVec.toNat_sub] <;> omega

theorem hexVal_isSome : (hexVal h c).isSome = isHex h c := by
  cases hc : isHex h c with
  | false => rw [hexVal_of_not_isHex hc, Option.isSome_none]
  | true => rw [← Option.isSome_map, hexVal_toNat hc, Option.isSome_some]

/-- Settles O7: the ranges of `isHex_iff` exclude each other, and each selects its branch of HEX.VAL. -/
theorem hexValParsesDigit : Obligations.HexValParsesDigit := by
  intro c h s m
  refine ⟨isHex_iff, hexVal_of_not_isHex, fun h1 h2 => ?_, fun h1 h2 => ?_, fun ha h1 h2 => ?_, rfl,
    decode_encode (i := .hexVal c) rfl, exec_hexVal_frame c s⟩
  · rw [hexVal_toNat (isHex_iff.2 (.inl ⟨h1, h2⟩)), if_pos h2]
  · rw [hexVal_toNat (isHex_iff.2 (.inr (.inl ⟨h1, h2⟩))), if_neg (by omega), if_pos h2]
  · rw [hexVal_toNat (isHex_iff.2 (.inr (.inr ⟨ha, h1, h2⟩))), if_neg (by omega), if_neg (by omega)]

end Sys2Proof.Machine
end

section
/-! The structural grammar SWF and DEC (30_encoding.md R68, 41_codec.md R106). -/

namespace Sys2Proof.Machine

/-- The shape R68 asks for: delimiter, payload, delimiter, a byte for each digit, CR, LF. -/
def framed (p : Bytes) (hi lo : Byte) : Bytes := [chDollar] ++ p ++ [chStar, hi, lo, chCr, chLf]

/-- `f` has the shape with payload `p` and the hex digits of `a` and `b`; no reserved byte in `p` under RESERVED. -/
def IsFrame (q : Params) (f p : Bytes) (a b : Nibble) : Prop :=
  ∃ hi lo, f = framed p hi lo ∧ hexVal q.decHexLower hi = some a ∧ hexVal q.decHexLower lo = some b ∧
    (q.decPayloadCheck = .reserved → p.any isReserved = false)

variable {q : Params} {f p : Bytes} {hi lo : Byte} {a b : Nibble}

theorem framed_length : (framed p hi lo).length = p.length + 6 := by simp [framed]

theorem payloadOf_framed : payloadOf (framed p hi lo) = p := by simp [payloadOf, framed]

theorem framed_tail {i k : Nat} (h : i = p.length + 1 + k) :
    (framed p hi lo)[i]? = [chStar, hi, lo, chCr, chLf][k]? := by
  subst h
  rw [framed, List.getElem?_append_right (by simp)]
  congr 1
  simp

theorem framed_from_end {j : Nat} (h : j < 5) :
    (framed p hi lo)[(framed p hi lo).length - (j + 1)]? = [chStar, hi, lo, chCr, chLf][4 - j]? :=
  framed_tail (by rw [framed_length]; omega)

/-- A sequence with the fixed bytes of R68 at their indices has the shape, whatever its length. -/
theorem eq_framed {k : Nat} (hlen : f.length = k + 5) (hk : 1 ≤ k) (h0 : f[0]? = some chDollar)
    (hstar : f[k]? = some chStar) (hhi : f[k + 1]? = some hi) (hlo : f[k + 2]? = some lo)
    (hcr : f[k + 3]? = some chCr) (hlf : f[k + 4]? = some chLf) : f = framed (payloadOf f) hi lo := by
  have hhead : (f.take k).take 1 = [chDollar] := by
    rw [List.take_take, min_eq_left hk, List.take_one, List.head?_eq_getElem?, h0]
    rfl
  have htail : f.drop k = [chStar, hi, lo, chCr, chLf] := by
    rw [List.drop_eq_getElem?_toList_append, hstar, List.drop_eq_getElem?_toList_append, hhi,
      List.drop_eq_getElem?_toList_append, hlo, List.drop_eq_getElem?_toList_append, hcr,
      List.drop_eq_getElem?_toList_append, hlf, List.drop_eq_nil_of_le hlen.le]
    rfl
  have hpay : payloadOf f = (f.take k).drop 1 := by rw [payloadOf, hlen, Nat.add_sub_cancel]
  rw [framed, hpay, ← hhead, List.take_append_drop, ← htail, List.take_append_drop]

theorem payloadCheck_iff : (decide (q.decPayloadCheck = .none) || !p.any isReserved) = true ↔
    (q.decPayloadCheck = .reserved → p.any isReserved = false) := by
  cases q.decPayloadCheck <;> simp

theorem hexVal_of_any_isHex {h : HexLower} {o : Option Byte} (ho : o.any (isHex h) = true) :
    ∃ c n, o = some c ∧ hexVal h c = some n := by
  cases o with
  | none => cases ho
  | some c =>
    obtain ⟨n, hn⟩ := Option.isSome_iff_exists.1 (hexVal_isSome.trans ho)
    exact ⟨c, n, rfl, hn⟩

theorem any_isHex_of_hexVal {h : HexLower} {c : Byte} {n : Nibble} (hc : hexVal h c = some n) :
    (some c).any (isHex h) = true := by
  rw [Option.any_some, ← hexVal_isSome, hc, Option.isSome_some]

theorem swf_iff_clauses : swf q f = true ↔ 6 ≤ f.length ∧ f[0]? = some chDollar ∧ f[f.length - 2]? = some chCr ∧
    f[f.length - 1]? = some chLf ∧ f[f.length - 5]? = some chStar ∧
    (f[f.length - 4]?).any (isHex q.decHexLower) = true ∧ (f[f.length - 3]?).any (isHex q.decHexLower) = true ∧
    (q.decPayloadCheck = .reserved → (payloadOf f).any isReserved = false) := by
  simp only [swf, Bool.and_eq_true, payloadCheck_iff, decide_eq_true_iff, beq_iff_eq, and_assoc]

theorem IsFrame.swf (h : IsFrame q f p a b) : swf q f = true := by
  obtain ⟨hi, lo, rfl, ha, hb, hp⟩ := h
  refine swf_iff_clauses.2 ⟨by rw [framed_length]; omega, rfl, framed_from_end (j := 1) (by omega),
    framed_from_end (j := 0) (by omega), framed_from_end (j := 4) (by omega), ?_, ?_, ?_⟩
  · rw [framed_from_end (j := 3) (by omega)]
    exact any_isHex_of_hexVal ha
  · rw [framed_from_end (j := 2) (by omega)]
    exact any_isHex_of_hexVal hb
  · rwa [payloadOf_framed]

theorem isFrame_of_swf (h : swf q f = true) : ∃ p a b, IsFrame q f p a b := by
  obtain ⟨hlen, h0, hcr, hlf, hstar, hh, hl, hp⟩ := swf_iff_clauses.1 h
  obtain ⟨k, hk⟩ : ∃ k, f.length = k + 5 := ⟨f.length - 5, by omega⟩
  obtain ⟨hi, a, hhi, ha⟩ := hexVal_of_any_isHex hh
  obtain ⟨lo, b, hlo, hb⟩ := hexVal_of_any_isHex hl
  rw [hk] at hcr hlf hstar hhi hlo
  exact ⟨payloadOf f, a, b, hi, lo, eq_framed hk (by omega) h0 hstar hhi hlo hcr hlf, ha, hb, hp⟩

theorem IsFrame.dec (h : IsFrame q f p a b) :
    dec q f = .decoded p (joinNibbles a b) (checksum p == joinNibbles a b) := by
  have hs := h.swf
  obtain ⟨hi, lo, rfl, ha, hb, -⟩ := h
  have hd : declaredOf q.decHexLower (framed p hi lo) = joinNibbles a b := by
    rw [declaredOf, digitAt, digitAt, framed_from_end (j := 3) (by omega), framed_from_end (j := 2) (by omega)]
    simp [ha, hb]
  rw [Machine.dec, if_pos hs, payloadOf_framed, hd]

theorem dec_cases (q : Params) (f : Bytes) : dec q f = .malformedFrame f ∨ ∃ p a b, IsFrame q f p a b := by
  cases hs : swf q f with
  | true => exact .inr (isFrame_of_swf hs)
  | false => exact .inl (by rw [dec, hs]; rfl)

theorem joinNibbles_toNat (a b : Nibble) : (joinNibbles a b).toNat = 16 * a.toNat + b.toNat := by
  unfold joinNibbles
  bv_omega

theorem any_isReserved_eq_false :
    p.any isReserved = false ↔ ∀ x ∈ p, x ≠ chDollar ∧ x ≠ chStar ∧ x ≠ chCr ∧ x ≠ chLf := by
  simp only [List.any_eq_false, isReserved_iff, not_or, ne_eq]

/-- Settles O11: outside the shape DEC is MalformedFrame, and a frame fixes its payload, its digits and the verdict. -/
theorem decDecodesExactlySwf : Obligations.DecDecodesExactlySwf := by
  intro q f s m
  refine ⟨fun p d v => ⟨fun h => ?_, ?_⟩, fun h => ?_, rfl, decode_encode (i := .dec f) rfl, exec_dec_frame f s⟩
  · obtain hm | ⟨p', a, b, hf⟩ := dec_cases q f
    · cases hm.symm.trans h
    · obtain ⟨rfl, rfl, rfl⟩ := DecResult.decoded.inj (hf.dec.symm.trans h)
      obtain ⟨hi, lo, hshape, ha, hb, hp⟩ := hf
      exact ⟨hi, lo, a, b, hshape, ha, hb, fun hr => any_isReserved_eq_false.1 (hp hr), joinNibbles_toNat a b,
        beq_iff_eq⟩
  · rintro ⟨hi, lo, a, b, hshape, ha, hb, hp, hd, hv⟩
    have hf : IsFrame q f p a b := ⟨hi, lo, hshape, ha, hb, fun hr => any_isReserved_eq_false.2 (hp hr)⟩
    obtain rfl : d = joinNibbles a b := BitVec.eq_of_toNat_eq (hd.trans (joinNibbles_toNat a b).symm)
    rw [hf.dec, Bool.eq_iff_iff.2 (hv.trans beq_iff_eq.symm)]
  · obtain hm | ⟨p, a, b, hf⟩ := dec_cases q f
    · exact hm
    · exact absurd hf.dec (h _ _ _)

end Sys2Proof.Machine
end

section
/-! The checksum as a fold of the associative and commutative XOR (40_checksum.md R92, R93). -/

namespace Sys2Proof.Machine

variable {x y : Bytes} {b : Byte}

@[simp] theorem checksum_nil : checksum [] = 0x00 := rfl

/-- An accumulator that starts at `a` instead of 0x00 is `a` xor the checksum. -/
theorem foldl_xor_eq (x : Bytes) (a : Byte) : x.foldl (fun acc b => acc ^^^ b) a = a ^^^ checksum x := by
  have ha : a = a ^^^ 0x00 := by simp
  conv_lhs => rw [ha]
  exact List.foldl_assoc

@[simp] theorem checksum_cons (b : Byte) (x : Bytes) : checksum (b :: x) = b ^^^ checksum x := by
  rw [checksum, List.foldl_cons, foldl_xor_eq]
  simp

@[simp] theorem checksum_append (x y : Bytes) : checksum (x ++ y) = checksum x ^^^ checksum y := by
  rw [checksum, List.foldl_append, foldl_xor_eq, ← checksum]

theorem checksum_perm (h : x.Perm y) : checksum x = checksum y := h.foldl_op_eq

/-- Two equal bytes cancel, wherever the second one stands. -/
theorem checksum_cons_of_mem (h : b ∈ x) : checksum (b :: x) = checksum (x.erase b) := by
  rw [checksum_cons, checksum_perm (List.perm_cons_erase h), checksum_cons, xor_cancel_left]

/-- R93 (d). The first byte occurs again, and the rest without both occurrences has even counts still. -/
theorem checksum_of_even_counts (x : Bytes) (h : ∀ b, x.count b % 2 = 0) : checksum x = 0x00 := by
  match x with
  | [] => rfl
  | b :: x =>
    have hb : b ∈ x := by
      have := h b
      rw [List.count_cons_self] at this
      exact List.count_pos_iff.1 (by omega)
    rw [checksum_cons_of_mem hb]
    refine checksum_of_even_counts (x.erase b) fun c => ?_
    have hc := h c
    obtain rfl | hne := eq_or_ne c b
    · rw [List.count_cons_self] at hc
      rw [List.count_erase_self]
      omega
    · rwa [List.count_erase_of_ne hne, ← List.count_cons_of_ne hne.symm]
termination_by x.length
decreasing_by simp [List.length_erase_of_mem hb]

/-- What is xored into one byte of a sequence is xored into its checksum. -/
theorem checksum_set_xor {i : Nat} (h : x[i]? = some b) (m : Byte) :
    checksum (x.set i (b ^^^ m)) = checksum x ^^^ m := by
  induction x generalizing i with
  | nil => simp at h
  | cons c x ih =>
    cases i with
    | zero =>
      obtain rfl : c = b := by simpa using h
      simp [BitVec.xor_assoc, BitVec.xor_comm m]
    | succ i => simp [ih (by simpa using h), BitVec.xor_assoc]

theorem one_shiftLeft_ne_zero {k : Nat} (hk : k < 8) : 1#8 <<< k ≠ 0 := by
  revert k
  decide

/-- Settles O4: one inverted bit is `checksum_set_xor` with a mask that is not 0, and two equal masks cancel. -/
theorem checksumLaws : Obligations.ChecksumLaws := by
  refine ⟨rfl, checksum_append, fun _ _ => checksum_perm, fun x => by simp, checksum_of_even_counts,
    fun x i b k hb hk => ⟨checksum_set_xor hb _, fun he => ?_⟩, fun x i j b c k hij hb hc _ => ?_⟩
  · rw [checksum_set_xor hb] at he
    exact one_shiftLeft_ne_zero hk (xor_left_eq_self_iff.1 he)
  · have hc' : (x.set i (b ^^^ (1#8 <<< k)))[j]? = some c := by rw [List.getElem?_set_ne hij, hc]
    rw [checksum_set_xor hc', checksum_set_xor hb, xor_cancel_right]

end Sys2Proof.Machine
end

section
/-! CK.CLR, CK.ACC and CK.SUM on the port (40_checksum.md R90 to R92, R95). -/

namespace Sys2Proof.Machine

variable {s : State} {rest : List PortEvent}

/-- Settles O1: the one named update is that of `ck`, and the event is valid without an operand. -/
theorem ckClrClearsAccumulator : Obligations.CkClrClearsAccumulator :=
  fun _ _ => ⟨rfl, rfl, decode_encode (i := .ckClr) rfl⟩

theorem exec_ckAcc (b : Byte) (s : State) : exec (.ckAcc b) s = .next { s with ck := s.ck ^^^ b } := rfl

theorem step_ckClr (hp : s.port = encode .ckClr :: rest) : step s = .next { s with ck := 0x00, port := rest } := by
  rw [step_of_decode_ok hp (decode_encode rfl)]
  rfl

theorem step_ckAcc {b : Byte} (hp : s.port = encode (.ckAcc b) :: rest) :
    step s = .next { s with ck := s.ck ^^^ b, port := rest } := by
  rw [step_of_decode_ok hp (decode_encode rfl), exec_ckAcc]

/-- Steps of CK.ACC, one for each byte, xor the checksum of the bytes into `ck` (R91). -/
theorem run_ckAcc (x : Bytes) (hp : s.port = x.map (fun b => encode (.ckAcc b)) ++ rest) :
    run x.length s = .next { s with ck := s.ck ^^^ checksum x, port := rest } := by
  induction x generalizing s with
  | nil =>
    obtain rfl : s.port = rest := hp
    simp
  | cons b x ih =>
    rw [List.length_cons, run_succ_of_next (step_ckAcc hp), ih rfl, checksum_cons, BitVec.xor_assoc]

/-- CK.SUM: `ck` afterwards does not depend on `ck` before (R92). -/
theorem run_ckSum (x : Bytes) (hp : s.port = ckSum x ++ rest) :
    run (x.length + 1) s = .next { s with ck := checksum x, port := rest } := by
  rw [run_succ_of_next (step_ckClr hp), run_ckAcc x rfl]
  simp

/-- Settles O2: `run_ckAcc` on the byte twice gives its last clause. -/
theorem ckAccXorsByte : Obligations.CkAccXorsByte := by
  refine fun s b m => ⟨rfl, rfl, decode_encode (i := .ckAcc b) rfl, ?_, ?_, ?_⟩
  · simp [exec_ckAcc]
  · simp [exec_ckAcc]
  · have h := run_ckAcc (s := { s with port := [encode (.ckAcc b), encode (.ckAcc b)] }) (rest := []) [b, b] rfl
    simpa using h

/-- Settles O3: CK.SUM is `run_ckSum`, and no effect of ENC, DEC or an agent writes `ck`. -/
theorem ckSumComputesChecksum : Obligations.CkSumComputesChecksum := by
  refine ⟨rfl, fun x b => ?_, fun s x rest => run_ckSum x rfl, fun s x => ⟨_, _, rfl, rfl, rfl, rfl⟩,
    fun i s t hi hx => ?_⟩
  · simp
  · obtain h | rfl | ⟨b, rfl⟩ | rfl := (exec_effect hx).ck_cases
    · exact h
    all_goals exact absurd rfl hi

/-- Settles O5: the four XOR steps of R95 and the four delimiter scopes, evaluated. -/
theorem workedChecksumOfLed1 : Obligations.WorkedChecksumOfLed1 := by
  unfold Obligations.WorkedChecksumOfLed1
  decide

end Sys2Proof.Machine
end

section
/-! HEX.FMT, and what HEX.VAL answers on its digits (41_codec.md R100, R102). -/

namespace Sys2Proof.Machine

variable {h : HexLower} {c : Byte} {n : Nibble}

theorem hexFmt_toNat (n : Nibble) :
    (hexFmt n).toNat = if n.toNat ≤ 9 then 0x30 + n.toNat else 0x37 + n.toNat := by
  simp only [hexFmt, BitVec.le_def, BitVec.ofNat_eq_ofNat, BitVec.toNat_ofNat, Nat.reducePow, Nat.reduceMod]
  split_ifs <;> bv_omega

theorem isHex_hexFmt (h : HexLower) (n : Nibble) : isHex h (hexFmt n) = true := by
  have hn := n.isLt
  rw [isHex_iff, hexFmt_toNat]
  split_ifs <;> omega

theorem hexVal_hexFmt (h : HexLower) (n : Nibble) : hexVal h (hexFmt n) = some n := by
  have hn := n.isLt
  apply Option.map_injective (f := BitVec.toNat) fun _ _ => BitVec.eq_of_toNat_eq
  rw [hexVal_toNat (isHex_hexFmt h n), hexFmt_toNat, Option.map_some]
  split_ifs <;> simp <;> omega

/-- The digits of a byte carry its value, 16 times the high one and the low one. -/
theorem nibbles_toNat (c : Byte) : 16 * (hiNibble c).toNat + (loNibble c).toNat = c.toNat := by
  simp only [hiNibble, loNibble, BitVec.extractLsb'_toNat, Nat.shiftRight_eq_div_pow]
  have hc := c.isLt
  omega

theorem joinNibbles_nibbles (c : Byte) : joinNibbles (hiNibble c) (loNibble c) = c :=
  BitVec.eq_of_toNat_eq ((joinNibbles_toNat _ _).trans (nibbles_toNat c))

theorem exec_hexFmt_frame (n : Nibble) (s : State) :
    ∃ t : State, exec (.hexFmt n) s = .next t ∧ { t with tester := s.tester } = s := ⟨_, rfl, rfl⟩

theorem exec_enc_frame (p : Bytes) (s : State) :
    ∃ t : State, exec (.enc p) s = .next t ∧ { t with tester := s.tester } = s := ⟨_, rfl, rfl⟩

/-- The HEX.FMT word of a nibble (R76). -/
theorem encode_hexFmt (n : Nibble) : encode (.hexFmt n) = ⟨0x700 ||| n.setWidth 12, none⟩ := by
  rw [encode, evWord, BitVec.setWidth_setWidth (by omega)]
  rfl

/-- HEX.FMT has 16 values of its data; the other words of its class are refused (R77). -/
theorem decode_hexFmt_isError {d : Byte} (hd : 16 ≤ d.toNat) (m : Bound) :
    ∃ e, decode m ⟨evWord 0x7 d, none⟩ = .error e := by
  rw [decode_isError, decode_isOk, evData_evWord, evClass_evWord]
  exact fun hlt => absurd hlt.1 (not_lt.2 hd)

/-- Settles O6: the two branches of `hexFmt_toNat`, and the event as `encode` gives it. -/
theorem hexFmtGivesUppercaseDigit : Obligations.HexFmtGivesUppercaseDigit := by
  intro n s m
  refine ⟨fun hn => ?_, fun hn => ?_, encode_hexFmt n, ?_, fun d hd => decode_hexFmt_isError hd m,
    exec_hexFmt_frame n s⟩
  · rw [hexFmt_toNat, if_pos hn]
  · rw [hexFmt_toNat, if_neg (by omega)]
  · rw [← encode_hexFmt]
    exact decode_encode rfl

/-- Settles O8: HEX.VAL gives back each of the two nibbles that make up the byte. -/
theorem hexDigitRoundTrip : Obligations.HexDigitRoundTrip :=
  ⟨fun h n => ⟨isHex_hexFmt h n, hexVal_hexFmt h n⟩,
    fun h c => ⟨hiNibble c, loNibble c, hexVal_hexFmt h _, hexVal_hexFmt h _, nibbles_toNat c⟩⟩

/-- No hex digit is a protocol character. -/
theorem isReserved_of_isHex (hc : isHex h c = true) : isReserved c = false := by
  rw [isHex_iff] at hc
  refine Bool.eq_false_iff.2 fun hr => ?_
  obtain rfl | rfl | rfl | rfl := isReserved_iff.1 hr <;> simp at hc

end Sys2Proof.Machine
end

section
/-! ENC, and DEC of its frames (41_codec.md R103, R104, R109). -/

namespace Sys2Proof.Machine

variable {p f : Bytes} {b : Byte} {i : Nat}

theorem any_isReserved_eq_true :
    p.any isReserved = true ↔ ∃ x ∈ p, x = chDollar ∨ x = chStar ∨ x = chCr ∨ x = chLf := by
  simp only [List.any_eq_true, isReserved_iff]

/-- Settles O9: the test of ENC is that of the payload's bytes against the four protocol characters. -/
theorem encFramesOrRefusesPayload : Obligations.EncFramesOrRefusesPayload := fun p s _ =>
  ⟨fun h => enc_invalid (any_isReserved_eq_true.2 h), fun h => enc_frame (any_isReserved_eq_false.2 h), rfl,
    decode_encode (i := .enc p) rfl, exec_enc_frame p s⟩

/-- A frame of ENC is well-formed under every value of the parameters: its digits are uppercase, its payload has no
reserved byte. -/
theorem isFrame_frameOf (q : Params) (hp : p.any isReserved = false) :
    IsFrame q (frameOf p) p (hiNibble (checksum p)) (loNibble (checksum p)) :=
  ⟨_, _, rfl, hexVal_hexFmt _ _, hexVal_hexFmt _ _, fun _ => hp⟩

theorem dec_frameOf (q : Params) (hp : p.any isReserved = false) :
    dec q (frameOf p) = .decoded p (checksum p) true := by
  rw [(isFrame_frameOf q hp).dec, joinNibbles_nibbles, beq_self_eq_true]

/-- Settles O12: the digits of the checksum join to the checksum. -/
theorem decOfEncRoundTrip : Obligations.DecOfEncRoundTrip := fun q _ h =>
  have hp := any_isReserved_eq_false.2 h
  ⟨_, enc_frame hp, dec_frameOf q hp⟩

/-- What stands between the `$` and the CR LF of a frame of ENC. -/
def frameBody (p : Bytes) : Bytes :=
  p ++ [chStar, hexFmt (hiNibble (checksum p)), hexFmt (loNibble (checksum p))]

theorem frameOf_eq (p : Bytes) : frameOf p = [chDollar] ++ frameBody p ++ [chCr, chLf] := by
  simp [frameOf, frameBody]

theorem frameBody_length (p : Bytes) : (frameBody p).length = p.length + 3 := by simp [frameBody]

/-- The `*` is the only protocol character between the two ends. -/
theorem frameBody_mem (hp : p.any isReserved = false) (hb : b ∈ frameBody p) : b = chStar ∨ isReserved b = false := by
  obtain hb | hb := List.mem_append.1 hb
  · exact .inr (Bool.eq_false_iff.2 (List.any_eq_false.1 hp b hb))
  · simp only [List.mem_cons, List.not_mem_nil, or_false] at hb
    obtain rfl | rfl | rfl := hb
    · exact .inl rfl
    · exact .inr (isReserved_of_isHex (isHex_hexFmt .accept _))
    · exact .inr (isReserved_of_isHex (isHex_hexFmt .accept _))

theorem not_mem_frameBody (hp : p.any isReserved = false) (hr : isReserved b = true) (hs : b ≠ chStar) :
    b ∉ frameBody p := fun hb =>
  (frameBody_mem hp hb).elim hs fun h => Bool.false_ne_true (h.symm.trans hr)

/-- A value that occurs at the head of a sequence only. -/
theorem getElem?_cons_eq_some_iff_zero {α : Type} {a : α} {x : List α} (h : a ∉ x) :
    (a :: x)[i]? = some a ↔ i = 0 := by
  cases i with
  | zero => simp
  | succ i => simpa using fun hi => h (List.mem_of_getElem? hi)

/-- CR LF after bytes without CR is the only CR LF. -/
theorem crlf_at_iff {x : Bytes} (h : chCr ∉ x) :
    ((x ++ [chCr, chLf])[i]? = some chCr ∧ (x ++ [chCr, chLf])[i + 1]? = some chLf) ↔ i = x.length := by
  refine ⟨fun ⟨hcr, hlf⟩ => ?_, ?_⟩
  · obtain hi | hi := lt_or_ge i x.length
    · rw [List.getElem?_append_left hi] at hcr
      exact absurd (List.mem_of_getElem? hcr) h
    · have hend : i + 1 < (x ++ [chCr, chLf]).length := (List.getElem?_eq_some_iff.1 hlf).1
      simp only [List.length_append, List.length_cons, List.length_nil] at hend
      omega
  · rintro rfl
    simp

/-- Settles O10: the frame is `$`, a body without `$` or CR, and CR LF; it meets the shape of SWF. -/
theorem encOutputShape : Obligations.EncOutputShape := by
  intro p f h
  obtain ⟨hp, rfl⟩ := enc_eq_frame h
  have hdollar : chDollar ∉ frameBody p := not_mem_frameBody hp rfl (by decide)
  have hcr : chCr ∉ frameBody p := not_mem_frameBody hp rfl (by decide)
  refine ⟨framed_length, fun q => (isFrame_frameOf q hp).swf, by simp [frameOf], fun i => ?_, fun i => ?_⟩
  · rw [frameOf_eq]
    exact getElem?_cons_eq_some_iff_zero (by simpa using hdollar)
  · rw [frameOf_eq, crlf_at_iff (by simpa using hcr)]
    simp

end Sys2Proof.Machine
end

section
/-! DEC on a frame: its one shape, a payload byte replaced, the running XOR (41_codec.md R110 to R112). -/

namespace Sys2Proof.Machine

variable {q : Params} {f p : Bytes} {hi lo b c d : Byte} {a e : Nibble} {i k : Nat} {v : Bool}

theorem isFrame_of_dec (h : dec q f = .decoded p d v) :
    ∃ a e, IsFrame q f p a e ∧ d = joinNibbles a e ∧ v = (checksum p == d) := by
  obtain hm | ⟨p', a, e, hf⟩ := dec_cases q f
  · cases hm.symm.trans h
  · obtain ⟨rfl, rfl, rfl⟩ := DecResult.decoded.inj (hf.dec.symm.trans h)
    exact ⟨a, e, hf, rfl, rfl⟩

theorem IsFrame.payload_eq (h : IsFrame q f p a e) : payloadOf f = p := by
  obtain ⟨hi, lo, rfl, -⟩ := h
  exact payloadOf_framed

theorem IsFrame.length_eq (h : IsFrame q f p a e) : f.length = p.length + 6 := by
  obtain ⟨hi, lo, rfl, -⟩ := h
  exact framed_length

/-- The bytes of the payload stand one place further on in the frame. -/
theorem framed_payload (hk : k < p.length) : (framed p hi lo)[k + 1]? = p[k]? := by
  rw [framed, List.append_assoc, List.singleton_append, List.getElem?_cons_succ, List.getElem?_append_left hk]

theorem framed_set (hk : k < p.length) (c : Byte) : (framed p hi lo).set (k + 1) c = framed (p.set k c) hi lo := by
  simp [framed, hk]

/-- Another payload byte keeps the shape and the digits, unless it is reserved and RESERVED tests it. -/
theorem IsFrame.set (h : IsFrame q f p a e) (hk : k < p.length)
    (hc : q.decPayloadCheck = .reserved → isReserved c = false) : IsFrame q (f.set (k + 1) c) (p.set k c) a e := by
  obtain ⟨hi, lo, rfl, ha, he, hp⟩ := h
  refine ⟨hi, lo, framed_set hk c, ha, he, fun hr => List.any_eq_false.2 fun x hx => ?_⟩
  obtain hx | rfl := List.mem_or_eq_of_mem_set hx
  · exact List.any_eq_false.1 (hp hr) x hx
  · exact Bool.eq_false_iff.1 (hc hr)

theorem payloadOf_set (h : IsFrame q f p a e) (hk : k < p.length) (c : Byte) :
    payloadOf (f.set (k + 1) c) = p.set k c := by
  obtain ⟨hi, lo, rfl, -⟩ := h
  rw [framed_set hk, payloadOf_framed]

/-- Under RESERVED a payload with a reserved byte is no frame's (30_encoding.md R68). -/
theorem dec_of_reserved_payload (hr : q.decPayloadCheck = .reserved) (hb : b ∈ payloadOf f)
    (hres : isReserved b = true) : dec q f = .malformedFrame f := by
  obtain hm | ⟨p, a, e, hf⟩ := dec_cases q f
  · exact hm
  · rw [hf.payload_eq] at hb
    obtain ⟨_, _, _, _, _, hp⟩ := hf
    exact absurd hres (List.any_eq_false.1 (hp hr) b hb)

theorem checksum_flip_ne (hb : p[i]? = some b) (hk : k < 8) :
    checksum (p.set i (b ^^^ (1#8 <<< k))) ≠ checksum p := by
  rw [checksum_set_xor hb]
  exact fun h => one_shiftLeft_ne_zero hk (xor_left_eq_self_iff.1 h)

/-- Settles O13: the flipped bit keeps the shape and changes the checksum, but not the digits; under RESERVED the new
byte may be refused first. -/
theorem singleBitFlipIsDetected : Obligations.SingleBitFlipIsDetected := by
  intro q f p d b i k hdec hi hlen hb hk
  obtain ⟨a, e, hf, rfl, hv⟩ := isFrame_of_dec hdec
  obtain ⟨j, rfl⟩ : ∃ j, i = j + 1 := ⟨i - 1, by omega⟩
  have hj : j < p.length := by have := hf.length_eq; omega
  have hbp : p[j]? = some b := by
    obtain ⟨_, _, rfl, -⟩ := hf
    rwa [framed_payload hj] at hb
  have hck : checksum p = joinNibbles a e := eq_of_beq hv.symm
  have hflip (hc : q.decPayloadCheck = .reserved → isReserved (b ^^^ (1#8 <<< k)) = false) :
      dec q (f.set (j + 1) (b ^^^ (1#8 <<< k))) =
        .decoded (p.set j (b ^^^ (1#8 <<< k))) (joinNibbles a e) false := by
    rw [(hf.set hj hc).dec, ← hck, beq_eq_false_iff_ne.2 (checksum_flip_ne hbp hk)]
  refine ⟨fun hnone => hflip (by simp [hnone]), fun hr => ⟨fun hres => ?_, fun hres => hflip fun _ => hres⟩⟩
  refine dec_of_reserved_payload hr ?_ hres
  rw [payloadOf_set hf hj]
  exact List.mem_set hj _

theorem checksum_framed_tail (p : Bytes) (hi lo : Byte) :
    checksum ((framed p hi lo).drop 1) = checksum p ^^^ hi ^^^ lo ^^^ 0x2D := by
  have hdrop : (framed p hi lo).drop 1 = p ++ [chStar, hi, lo, chCr, chLf] := by simp [framed]
  simp only [hdrop, checksum_append, checksum_cons, checksum_nil]
  have hdelim : (0x2D : Byte) = chStar ^^^ chCr ^^^ chLf := by decide
  rw [hdelim]
  ac_rfl

/-- Settles O14: `*`, CR and LF xor to 0x2D, and each digit byte cancels itself. -/
theorem runningXorGivesPayloadChecksum : Obligations.RunningXorGivesPayloadChecksum := by
  intro q f p d hi lo v hdec hhi hlo
  obtain ⟨_, _, ⟨hi', lo', rfl, -⟩, -⟩ := isFrame_of_dec hdec
  obtain rfl : hi' = hi := by
    rw [framed_from_end (j := 3) (by omega)] at hhi
    exact Option.some.inj hhi
  obtain rfl : lo' = lo := by
    rw [framed_from_end (j := 2) (by omega)] at hlo
    exact Option.some.inj hlo
  rw [checksum_framed_tail]
  ac_nf
  simp

theorem dec_of_short (h : f.length < 6) : dec q f = .malformedFrame f := by
  obtain hm | ⟨p, a, e, hf⟩ := dec_cases q f
  · exact hm
  · have := hf.length_eq
    omega

/-- Settles O15: five bytes are too few for a frame; the digits `FF` are those of 0xFF, which is not the checksum. -/
theorem malformedIsNotMismatch : Obligations.MalformedIsNotMismatch := fun q =>
  have hf : IsFrame q [0x24, 0x4C, 0x45, 0x44, 0x31, 0x2A, 0x46, 0x46, 0x0D, 0x0A] [0x4C, 0x45, 0x44, 0x31] 0xF 0xF :=
    ⟨0x46, 0x46, rfl, hexVal_hexFmt _ 0xF, hexVal_hexFmt _ 0xF, fun _ => by decide⟩
  ⟨dec_of_short (by decide), hf.dec⟩

end Sys2Proof.Machine
end

section
/-! Bytes fed to a running session, one RX.CHECK and one RX.BYTE for each (30_encoding.md R79, 42_reassembler.md R131 to
R134). -/

namespace Sys2Proof.Machine

variable {s t : State} {b : Byte} {c x mid : Bytes} {rest : List PortEvent}

theorem step_of_effect {e : PortEvent} {i : Instr} (hp : s.port = e :: rest) (hd : decode s.params.lineMax e = .ok i)
    (he : Effect { s with port := rest } i t) : step s = .next t :=
  (step_of_decode_ok hp hd).trans (exec_of_effect he)

theorem run_append {j k : Nat} {u : State} (h : run j s = .next t) (h' : run k t = .next u) :
    run (j + k) s = .next u := (run_add h).trans h'

/-- The session runs, and its RX agent is about to test a `term` that is not set. -/
structure State.AtCheck (s : State) : Prop where
  fatal : s.fatal = false
  term : s.term = false
  rxPhase : s.rxPhase = .check

/-- `s` with `c` as the candidate in progress and `es` offered. -/
def State.collecting (s : State) (c : Bytes) (es : List PortEvent) : State :=
  { s with rsState := .collecting, cand := c, port := es }

theorem State.AtCheck.collecting (hs : s.AtCheck) (c : Bytes) (es : List PortEvent) : (s.collecting c es).AtCheck :=
  ⟨hs.fatal, hs.term, hs.rxPhase⟩

theorem rxFeed_append (x y : Bytes) : rxFeed (x ++ y) = rxFeed x ++ rxFeed y := List.flatMap_append

/-- One fed byte: RX.CHECK moves to POLL, and the byte has its effect there, which ends at CHECK. -/
theorem run_fedByte (hs : s.AtCheck) (ht : t.AtCheck) (hp : s.port = rxFeed [b] ++ rest)
    (he : Effect ({ s with port := rest }.setRxPhase .poll) (rxByteInstr b) (t.setRxPhase .check)) :
    run 2 s = .next t := by
  have hcheck : step s = .next ({ s with port := evRxByte b :: rest }.setRxPhase .poll) := by
    rw [step_of_effect hp (decode_encode (i := .rxCheck) rfl) (.checked hs.fatal hs.rxPhase)]
    simp [hs.term]
  have hbyte : step ({ s with port := evRxByte b :: rest }.setRxPhase .poll) = .next t := by
    rw [step_of_effect rfl (decode_rxByte _ b) he, State.setRxPhase, ← ht.rxPhase]
  rw [run_succ_of_next hcheck, run_succ_of_next hbyte, run_zero]

/-- `$` starts the candidate anew, whatever it was (R131). -/
theorem run_fedDollar (hs : s.AtCheck) (hp : s.port = rxFeed [chDollar] ++ rest) :
    run 2 s = .next (s.collecting [chDollar] rest) :=
  run_fedByte hs (hs.collecting _ _) hp (.start hs.fatal rfl)

theorem candFull_of_room (h : s.params.candMax.atLeast (s.cand.length + 1) = true) : s.candFull = false := by
  refine Bool.eq_false_iff.2 fun hf => ?_
  rw [candFull_iff.1 hf] at h
  exact absurd (of_decide_eq_true h) (Nat.not_succ_le_self _)

/-- A byte that fits, is no `$` and completes no CR LF is appended (R133, R134). -/
theorem run_fedAppend (hs : s.AtCheck) (hroom : s.params.candMax.atLeast (c.length + 1) = true) (hd : b ≠ chDollar)
    (hl : b = chLf → c.getLast? ≠ some chCr) :
    run 2 (s.collecting c (rxFeed [b] ++ rest)) = .next (s.collecting (c ++ [b]) rest) := by
  have hfull : (s.collecting c rest).candFull = false := candFull_of_room hroom
  refine run_fedByte (hs.collecting _ _) (hs.collecting _ _) rfl ?_
  obtain rfl | hb := eq_or_ne b chLf
  · exact .appendLf hs.fatal rfl rfl hfull (hl rfl)
  · rw [rxByteInstr, byteClass_eq_other.2 ⟨hd, hb⟩]
    exact .append b hs.fatal rfl rfl hfull

/-- An LF after a CR completes the frame: its verdict is reported and the candidate is empty (R134, R155). -/
theorem run_fedComplete (hs : s.AtCheck) (hroom : s.params.candMax.atLeast (c.length + 1) = true)
    (hl : c.getLast? = some chCr) :
    run 2 (s.collecting c (rxFeed [chLf] ++ rest)) = .next { s with
      rsState := .idle, cand := [], con := s.con ++ [frameRecord s.params (c ++ [chLf])], port := rest } := by
  have hfull : (s.collecting c rest).candFull = false := candFull_of_room hroom
  exact run_fedByte (hs.collecting _ _) ⟨hs.fatal, hs.term, hs.rxPhase⟩ rfl
    (.complete (s := (s.collecting c rest).setRxPhase .poll) hs.fatal rfl rfl hfull hl)

theorem getLast?_ne_cr_of_lf (h : noCrlfPair (c ++ chLf :: x)) : c.getLast? ≠ some chCr := by
  intro hcr
  obtain ⟨y, rfl⟩ := List.getLast?_eq_some_iff.1 hcr
  exact h y.length (by simp) (by simp)

/-- Bytes without `$` that fit and complete no CR LF are all appended. -/
theorem run_feedAppend (hs : s.AtCheck) (hroom : s.params.candMax.atLeast (c.length + x.length) = true)
    (hd : chDollar ∉ x) (hcrlf : noCrlfPair (c ++ x)) :
    run (2 * x.length) (s.collecting c (rxFeed x ++ rest)) = .next (s.collecting (c ++ x) rest) := by
  induction x generalizing c with
  | nil => simp [rxFeed]
  | cons b x ih =>
    obtain ⟨hb, hx⟩ := List.ne_and_not_mem_of_not_mem_cons hd
    rw [List.length_cons] at hroom
    have hfirst := run_fedAppend (c := c) (rest := rxFeed x ++ rest) hs (atLeast_mono (by omega) hroom) hb.symm
      (by rintro rfl; exact getLast?_ne_cr_of_lf hcrlf)
    have hrest := ih (c := c ++ [b]) (by simpa [Nat.add_assoc, Nat.add_comm 1] using hroom) hx (by simpa using hcrlf)
    rw [List.append_assoc, List.singleton_append] at hrest
    rw [List.length_cons, show 2 * (x.length + 1) = 2 + 2 * x.length by omega]
    exact run_append hfirst hrest

theorem noCrlfPair_cons (hb : b ≠ chCr) (h : noCrlfPair x) : noCrlfPair (b :: x) := by
  intro j
  cases j with
  | zero => simpa using fun hcr => absurd hcr hb
  | succ j => simpa using h j

theorem noCrlfPair_of_not_mem (h : chLf ∉ x) : noCrlfPair x := fun _ _ hlf => h (List.mem_of_getElem? hlf)

/-- A complete frame that fits, fed in any state of RSM and with any candidate, is reported at its last byte
(42_reassembler.md R137, R138). -/
theorem run_feedFrame (hs : s.AtCheck) (hp : s.port = rxFeed ([chDollar] ++ mid ++ [chCr, chLf]) ++ rest)
    (hroom : s.params.candMax.atLeast (mid.length + 3) = true) (hd : chDollar ∉ mid)
    (hcrlf : noCrlfPair (mid ++ [chCr])) :
    run (2 * (mid.length + 3)) s = .next { s with
      rsState := .idle, cand := [],
      con := s.con ++ [frameRecord s.params ([chDollar] ++ mid ++ [chCr, chLf])], port := rest } := by
  have hsplit : [chDollar] ++ mid ++ [chCr, chLf] = [chDollar] ++ (mid ++ [chCr]) ++ [chLf] := by simp
  rw [hsplit, rxFeed_append, rxFeed_append, List.append_assoc, List.append_assoc] at hp
  have hlen : (mid ++ [chCr]).length = mid.length + 1 := by simp
  have hcand : ([chDollar] ++ (mid ++ [chCr])).length = mid.length + 2 := by simp
  have hstart := run_fedDollar hs hp
  have hbody := run_feedAppend (c := [chDollar]) (x := mid ++ [chCr]) (rest := rxFeed [chLf] ++ rest) hs
    (atLeast_mono (by rw [hlen, List.length_singleton]; omega) hroom) (by simpa using hd)
    (noCrlfPair_cons (by decide) hcrlf)
  have hend := run_fedComplete (c := [chDollar] ++ (mid ++ [chCr])) (rest := rest) hs
    (atLeast_mono (by rw [hcand]) hroom) (by rw [← List.append_assoc, List.getLast?_concat])
  rw [hsplit, show 2 * (mid.length + 3) = 2 + 2 * (mid ++ [chCr]).length + 2 by omega]
  exact run_append (run_append hstart hbody) hend

/-- Settles O55: a frame of ENC is complete, and DEC gives back its payload, valid. -/
theorem fedFrameIsReportedValid : Obligations.FedFrameIsReportedValid := by
  intro s p f rest hf ht hp henc hroom
  obtain ⟨hr, rfl⟩ := enc_eq_frame henc
  have hdollar : chDollar ∉ frameBody p := not_mem_frameBody hr rfl (by decide)
  have hlf : chLf ∉ frameBody p := not_mem_frameBody hr rfl (by decide)
  have hrecord : frameRecord s.params (frameOf p) = .rxValid p (checksum p) (frameOf p) := by
    rw [frameRecord, dec_frameOf _ hr]
  have h := run_feedFrame (s := { s with port := rxFeed (frameOf p) ++ rest }) (mid := frameBody p) (rest := rest)
    ⟨hf, ht, hp⟩ (by rw [frameOf_eq]) (by rwa [frameBody_length]) hdollar
    (noCrlfPair_of_not_mem (by simpa using hlf))
  rwa [← frameOf_eq, frameBody_length, hrecord] at h

end Sys2Proof.Machine
end

section
/-! The records of a step: RSM appends an overflow of a full candidate, or the verdict of the frame it completes
(42_reassembler.md R134, R135, R137). -/

namespace Sys2Proof.Machine

variable {s t : State} {i : Instr} {r : Record} {f : Bytes}

theorem candFull_eq_false_iff : s.candFull = false ↔ s.params.candMax ≠ .fin s.clen := by
  rw [← Bool.not_eq_true, candFull_iff]

/-- The frame a verdict is about (43_session.md R155). -/
def Record.verdictFrame : Record → Option Bytes
  | .rxValid _ _ f | .rxCkbad _ _ f | .rxMalformed f => some f
  | .rxOverflow _ | .txEcho _ _ | .txInvalid _ | .txTooLong _ => none

theorem verdictFrame_eq_some_iff :
    r.verdictFrame = some f ↔ r = .rxMalformed f ∨ (∃ p d, r = .rxValid p d f) ∨ ∃ p d, r = .rxCkbad p d f := by
  cases r <;> simp [Record.verdictFrame]

@[simp] theorem verdictFrame_frameRecord (p : Params) (f : Bytes) : (frameRecord p f).verdictFrame = some f :=
  verdictFrame_eq_some_iff.2 <| by
    obtain ⟨-, h⟩ | ⟨x, d, -, h⟩ | ⟨x, d, -, h⟩ := frameRecord_cases p f
    · exact .inl h
    · exact .inr (.inl ⟨x, d, h⟩)
    · exact .inr (.inr ⟨x, d, h⟩)

/-- The verdict is the one DEC gives (R155). -/
theorem frameRecord_of_dec (p : Params) (f : Bytes) :
    (dec p f = .malformedFrame f → frameRecord p f = .rxMalformed f) ∧
    (∀ x d, dec p f = .decoded x d true → frameRecord p f = .rxValid x d f) ∧
    (∀ x d, dec p f = .decoded x d false → frameRecord p f = .rxCkbad x d f) :=
  ⟨fun h => by rw [frameRecord, h], fun _ _ h => by rw [frameRecord, h], fun _ _ h => by rw [frameRecord, h]⟩

/-- Where a step's one new record comes from: an overflow, a completed frame, or the send direction, whose records have
the codes from 5 on (43_session.md R151). -/
theorem Effect.record_cases (h : Effect s i t) (hr : t.con = s.con ++ [r]) :
    (s.candFull = true ∧ r = .rxOverflow s.cand) ∨
    (i = .rxLf ∧ s.rsState = .collecting ∧ s.candFull = false ∧ s.cand.getLast? = some chCr ∧
      r = frameRecord s.params (s.cand ++ [chLf])) ∨
    5 ≤ r.code := by
  cases h with
  | overflow _ _ _ _ hm => exact .inl ⟨hm, by simpa using hr.symm⟩
  | complete _ _ hc hm hl => exact .inr (.inl ⟨rfl, hc, hm, hl, by simpa using hr.symm⟩)
  | tooLong | invalid | written =>
    simp only [emit_con, txWriteOk_con, List.append_cancel_left_eq, List.cons.injEq, and_true] at hr
    exact .inr (.inr (by simp [← hr, Record.code]))
  | _ => exact absurd hr (by simp)

theorem Effect.completes_of_verdict (h : Effect s i t) (hr : t.con = s.con ++ [r]) (hf : r.verdictFrame = some f) :
    i = .rxLf ∧ s.rsState = .collecting ∧ s.candFull = false ∧ s.cand.getLast? = some chCr ∧ f = s.cand ++ [chLf] := by
  obtain ⟨-, rfl⟩ | ⟨hi, hc, hm, hl, rfl⟩ | hcode := h.record_cases hr
  · cases hf
  · exact ⟨hi, hc, hm, hl, by simpa using hf.symm⟩
  · cases r <;> simp_all [Record.verdictFrame, Record.code]

theorem Effect.full_of_overflow {raw : Bytes} (h : Effect s i t) (hr : t.con = s.con ++ [.rxOverflow raw]) :
    s.candFull = true := by
  obtain ⟨hm, -⟩ | ⟨-, -, -, -, hv⟩ | hcode := h.record_cases hr
  · exact hm
  · cases (congrArg Record.verdictFrame hv).trans (verdictFrame_frameRecord _ _)
  · simp [Record.code] at hcode

/-- The `$` a candidate starts with and the CR it ends with are two bytes. -/
theorem State.RsmInv.two_le_length (h : s.RsmInv) (hc : s.rsState = .collecting)
    (hl : s.cand.getLast? = some chCr) : 2 ≤ s.cand.length := by
  have hstart := h.starts hc
  obtain ⟨x, hx⟩ := List.getLast?_eq_some_iff.1 hl
  cases x <;> simp_all

theorem State.RsmInv.length_lt {k : Nat} (h : s.RsmInv) (hm : s.candFull = false) (hk : s.params.candMax = .fin k) :
    s.cand.length < k := by
  refine lt_of_le_of_ne (h.length_le hk) fun he => candFull_eq_false_iff.1 hm ?_
  rw [hk, ← he]

/-- Settles O52: the one effect that reports a frame completes the candidate of R24, which starts with its only `$`, has
no CR LF pair, ends with CR and still has room for the LF. -/
theorem emittedFramesAreFramed : Obligations.EmittedFramesAreFramed := by
  intro i s t r f h hx hr hv
  obtain ⟨hi, hc, hm, hl, rfl⟩ := (exec_effect hx).completes_of_verdict hr (verdictFrame_eq_some_iff.2 hv)
  have hlen : 2 ≤ s.cand.length := h.two_le_length hc hl
  have hlf : (s.cand ++ [chLf]).length = s.cand.length + 1 := by simp
  refine ⟨hi, rfl, ?_, ?_, by omega, fun k hk => ?_, fun j hj => ?_⟩
  · rw [List.getElem?_append_left (by omega)]
    exact h.starts hc
  · obtain ⟨x, hx⟩ := List.getLast?_eq_some_iff.1 hl
    exact ⟨x, by simp [hx], hx ▸ h.noInnerCrlf⟩
  · rw [hlf]
    exact h.length_lt hm hk
  · have hinner := h.noInnerDollar j hj
    rw [List.getElem?_append]
    split
    · exact hinner
    · rw [List.getElem?_singleton]
      split <;> simp

/-- The same state with CAND_MAX = INF (42_reassembler.md R139). -/
def State.unbounded (s : State) : State := { s with params := { s.params with candMax := .inf } }

/-- CAND_MAX is read by the test for a full buffer alone, so every effect but an overflow takes place without it. -/
theorem Effect.unbounded (h : Effect s i t) (hov : ∀ raw, t.con ≠ s.con ++ [.rxOverflow raw]) :
    Effect s.unbounded i t.unbounded := by
  cases h with
  | overflow => exact absurd rfl (hov s.cand)
  | append b hf hp hc => exact .append b hf hp hc rfl
  | appendLf hf hp hc _ hl => exact .appendLf hf hp hc rfl hl
  | complete hf hp hc _ hl => exact .complete hf hp hc rfl hl
  | _ => constructor <;> assumption

/-- Settles O56: an overflow needs a full buffer, which INF never has; every other effect is one of the unbounded
machine. -/
theorem unboundedMachineAgrees : Obligations.UnboundedMachineAgrees := by
  refine ⟨fun i s t raw hinf hx hr => ?_, fun i s t hx hov => exec_of_effect ((exec_effect hx).unbounded hov)⟩
  have hfull := candFull_iff.1 ((exec_effect hx).full_of_overflow hr)
  simp [hinf] at hfull

end Sys2Proof.Machine
end

section
/-! One received byte at a poll (42_reassembler.md R131 to R136), as an event and as an instruction. The word
`0x100 ||| b` is `evWord 0x1 b` by evaluation (30_encoding.md R76). -/

namespace Sys2Proof.Machine

variable {s : State} {b : Byte}

theorem rxByteInstr_other (hd : b ≠ chDollar) (hl : b ≠ chLf) : rxByteInstr b = .rxOther b := by
  rw [rxByteInstr, byteClass_eq_other.2 ⟨hd, hl⟩]

/-- Every byte but `$` is discarded in IDLE and dropped by a full buffer (R132, R135). -/
theorem plainByte_rxByteInstr (hd : b ≠ chDollar) : PlainByte (rxByteInstr b) := by
  obtain rfl | hl := eq_or_ne b chLf
  · exact .lf
  · rw [rxByteInstr_other hd hl]
    exact .other b

/-- A byte that is no `$`, finds room and completes no CR LF is appended (R133, R134). -/
theorem effect_append (hf : s.fatal = false) (hp : s.rxPhase = .poll) (hc : s.rsState = .collecting)
    (hm : s.candFull = false) (hd : b ≠ chDollar) (hl : b = chLf → s.cand.getLast? ≠ some chCr) :
    Effect s (rxByteInstr b) ((s.candAppend b).setRxPhase .check) := by
  obtain rfl | hb := eq_or_ne b chLf
  · exact .appendLf hf hp hc hm (hl rfl)
  · rw [rxByteInstr_other hd hb]
    exact .append b hf hp hc hm

/-- RX.CHECK ends the receive loop once `term` is set (43_session.md R152). -/
theorem exec_rxCheck_of_term (hf : s.fatal = false) (hp : s.rxPhase = .check) (ht : s.term = true) :
    exec .rxCheck s = .next (s.setRxPhase .done) := by
  rw [exec_of_effect (.checked hf hp), if_pos ht]

/-- Settles O17: the effect of `$` asks nothing of the candidate. -/
theorem dollarStartsOrRestartsCandidate : Obligations.DollarStartsOrRestartsCandidate :=
  fun _ _ hf hp => ⟨exec_of_effect (.start hf hp), rfl, decode_rxByte _ chDollar⟩

/-- Settles O18: the byte's event decodes to a plain byte. -/
theorem idleByteIsDiscarded : Obligations.IdleByteIsDiscarded :=
  fun _ b m hf hp hi hd =>
    ⟨rxByteInstr b, decode_rxByte m b, exec_of_effect (.discard hf hp (plainByte_rxByteInstr hd) hi)⟩

/-- Settles O19: the three effects of RX.OTHER, told apart by RSM's state and by a full buffer. -/
theorem otherByteIsAppended : Obligations.OtherByteIsAppended :=
  fun _ b m hf hp hd hl =>
    ⟨rfl, rxByteInstr_other hd hl ▸ decode_rxByte m b, fun hi => exec_of_effect (.discard hf hp (.other b) hi),
      fun hc hfull => exec_of_effect (.overflow hf hp (.other b) hc (candFull_iff.2 hfull)),
      fun hc hroom => exec_of_effect (.append b hf hp hc (candFull_eq_false_iff.2 hroom))⟩

/-- Settles O20: the four effects of RX.LF; the record of a completed frame is its verdict. -/
theorem lineFeedCompletesOrAppends : Obligations.LineFeedCompletesOrAppends :=
  fun s m hf hp =>
    ⟨rfl, decode_rxByte m chLf, fun hi => exec_of_effect (.discard hf hp .lf hi),
      fun hc hfull => exec_of_effect (.overflow hf hp .lf hc (candFull_iff.2 hfull)),
      fun hc hroom hl => exec_of_effect (.appendLf hf hp hc (candFull_eq_false_iff.2 hroom) hl),
      fun hc hroom hl => ⟨frameRecord s.params (s.cand ++ [chLf]),
        exec_of_effect (.complete hf hp hc (candFull_eq_false_iff.2 hroom) hl), frameRecord_of_dec _ _⟩⟩

/-- Settles O21: a plain byte, LF or another, overflows a full buffer. -/
theorem fullCandidateOverflows : Obligations.FullCandidateOverflows :=
  fun _ b m hf hp hc hfull hd =>
    ⟨rxByteInstr b, decode_rxByte m b,
      exec_of_effect (.overflow hf hp (plainByte_rxByteInstr hd) hc (candFull_iff.2 hfull))⟩

/-- Settles O22: the effect of RX.NONE, and that of RX.CHECK with `term` set. -/
theorem emptyPollOnlyMovesPhase : Obligations.EmptyPollOnlyMovesPhase :=
  fun s _ hf hp => ⟨exec_of_effect (.none hf hp), rfl, decode_encode (i := .rxNone) rfl,
    exec_rxCheck_of_term (s := s.setRxPhase .check) hf rfl⟩

end Sys2Proof.Machine
end

section
/-! Bytes fed to a running session that complete no frame: noise, and partial frames (42_reassembler.md R138). -/

namespace Sys2Proof.Machine

variable {s : State} {b : Byte} {x : Bytes} {rest : List PortEvent}

/-- In IDLE a byte that is no `$` leaves the block as it was (R132). -/
theorem run_fedDiscard (hs : s.AtCheck) (hi : s.rsState = .idle) (hp : s.port = rxFeed [b] ++ rest)
    (hd : b ≠ chDollar) : run 2 s = .next { s with port := rest } :=
  run_fedByte hs ⟨hs.fatal, hs.term, hs.rxPhase⟩ hp
    (.discard (s := { s with port := rest }.setRxPhase .poll) hs.fatal rfl (plainByte_rxByteInstr hd) hi)

theorem run_feedDiscard (hs : s.AtCheck) (hi : s.rsState = .idle) (hp : s.port = rxFeed x ++ rest)
    (hd : chDollar ∉ x) : run (2 * x.length) s = .next { s with port := rest } := by
  induction x generalizing s with
  | nil =>
    obtain rfl : s.port = rest := hp
    rfl
  | cons b x ih =>
    obtain ⟨hb, hx⟩ := List.ne_and_not_mem_of_not_mem_cons hd
    have hfirst : run 2 s = .next { s with port := rxFeed x ++ rest } := run_fedDiscard hs hi hp hb.symm
    have hrest := ih (s := { s with port := rxFeed x ++ rest }) ⟨hs.fatal, hs.term, hs.rxPhase⟩ hi rfl hx
    rw [List.length_cons, show 2 * (x.length + 1) = 2 + 2 * x.length by omega]
    exact run_append hfirst hrest

/-- Settles O54: no byte of the noise leaves IDLE. -/
theorem idleNoiseEmitsNothing : Obligations.IdleNoiseEmitsNothing :=
  fun _ _ _ hf ht hp hi hd => run_feedDiscard ⟨hf, ht, hp⟩ hi rfl hd

/-- `s` after fed bytes that completed no frame: another candidate, and the overflows reported on the way. -/
def State.afterFeed (s : State) (r : RsState) (c : Bytes) (raws : List Bytes) (es : List PortEvent) : State :=
  { s with rsState := r, cand := c, con := s.con ++ raws.map .rxOverflow, port := es }

theorem afterFeed_afterFeed {r r' : RsState} {c c' : Bytes} {raws raws' : List Bytes} {es es' : List PortEvent} :
    (s.afterFeed r c raws es).afterFeed r' c' raws' es' = s.afterFeed r' c' (raws ++ raws') es' := by
  simp [State.afterFeed]

/-- A running session in which `x` completes no frame: the candidate in progress, empty in IDLE, followed by `x` has no
CR LF pair. -/
structure State.NoFrameIn (s : State) (x : Bytes) : Prop where
  atCheck : s.AtCheck
  idle : s.rsState = .idle → s.cand = []
  noPair : noCrlfPair (s.cand ++ x)

theorem noCrlfPair_of_append {y : Bytes} (h : noCrlfPair (y ++ x)) : noCrlfPair x := by
  intro j
  simpa [List.getElem?_append_right, Nat.add_assoc] using h (y.length + j)

theorem State.NoFrameIn.afterFeed {r : RsState} {c : Bytes} (h : s.NoFrameIn (b :: x)) (raws : List Bytes)
    (es : List PortEvent) (hr : r = .idle → c = []) (hc : noCrlfPair (c ++ x)) :
    (s.afterFeed r c raws es).NoFrameIn x :=
  ⟨⟨h.atCheck.fatal, h.atCheck.term, h.atCheck.rxPhase⟩, hr, hc⟩

/-- One byte of them: it restarts the candidate, is discarded, is dropped by a full buffer, or is appended. -/
theorem run_fedPartByte (h : s.NoFrameIn (b :: x)) (hp : s.port = rxFeed [b] ++ rest) :
    ∃ r c raws, run 2 s = .next (s.afterFeed r c raws rest) ∧ (s.afterFeed r c raws rest).NoFrameIn x ∧
      c.length ≤ s.cand.length + 1 ∧ (s.params.candMax.atLeast (s.cand.length + 1) = true → raws = []) := by
  have htail : noCrlfPair x := noCrlfPair_of_append (y := s.cand ++ [b]) (by simpa using h.noPair)
  by_cases hd : b = chDollar
  · subst hd
    refine ⟨.collecting, [chDollar], [], ?_, h.afterFeed _ _ nofun (noCrlfPair_cons (by decide) htail), by simp,
      fun _ => rfl⟩
    rw [run_fedDollar h.atCheck hp]
    simp [State.collecting, State.afterFeed]
  cases hc : s.rsState with
  | idle =>
    refine ⟨.idle, [], [], ?_, h.afterFeed _ _ (fun _ => rfl) htail, by simp, fun _ => rfl⟩
    rw [run_fedDiscard h.atCheck hc hp hd]
    simp [State.afterFeed, hc, h.idle hc]
  | collecting =>
    cases hm : s.candFull with
    | true =>
      have hnext : (s.afterFeed .idle [] [s.cand] rest).NoFrameIn x := h.afterFeed _ _ (fun _ => rfl) htail
      refine ⟨_, _, _, run_fedByte h.atCheck hnext.atCheck hp ?_, hnext, by simp, fun hroom => ?_⟩
      · exact .overflow (s := { s with port := rest }.setRxPhase .poll) h.atCheck.fatal rfl
          (plainByte_rxByteInstr hd) hc hm
      · rw [candFull_of_room hroom] at hm
        cases hm
    | false =>
      have hnext : (s.afterFeed .collecting (s.cand ++ [b]) [] rest).NoFrameIn x :=
        h.afterFeed _ _ nofun (by simpa using h.noPair)
      refine ⟨_, _, _, run_fedByte h.atCheck hnext.atCheck hp ?_, hnext, by simp, fun _ => rfl⟩
      have happend := effect_append (s := { s with port := rest }.setRxPhase .poll) h.atCheck.fatal rfl hc hm hd
        (by rintro rfl; exact getLast?_ne_cr_of_lf h.noPair)
      simpa [State.afterFeed, State.candAppend, State.setRxPhase, hc] using happend

/-- All of them: nothing but overflows is reported, and none if the bytes fit behind the candidate. -/
theorem run_feedPart (h : s.NoFrameIn x) (hp : s.port = rxFeed x ++ rest) :
    ∃ r c raws, run (2 * x.length) s = .next (s.afterFeed r c raws rest) ∧
      (s.params.candMax.atLeast (s.cand.length + x.length) = true → raws = []) := by
  induction x generalizing s with
  | nil =>
    obtain rfl : s.port = rest := hp
    exact ⟨s.rsState, s.cand, [], by simp [State.afterFeed], fun _ => rfl⟩
  | cons b x ih =>
    obtain ⟨r, c, raws, hfirst, hnext, hlen, hraws⟩ := run_fedPartByte (rest := rxFeed x ++ rest) h hp
    obtain ⟨r', c', raws', hrest, hraws'⟩ := ih hnext rfl
    rw [afterFeed_afterFeed] at hrest
    rw [List.length_cons, show 2 * (x.length + 1) = 2 + 2 * x.length by omega]
    refine ⟨r', c', raws ++ raws', run_append hfirst hrest, fun hroom => ?_⟩
    have hnow : raws = [] := hraws (atLeast_mono (by omega) hroom)
    have hlater : raws' = [] := hraws' (atLeast_mono (show c.length + x.length ≤ _ by omega) hroom)
    rw [hnow, hlater, List.append_nil]

/-- Settles O53: the partial frame leaves some candidate and no verdict, and the complete frame is reported from any
candidate. -/
theorem resyncYieldsOnlySecondFrame : Obligations.ResyncYieldsOnlySecondFrame := by
  intro s part mid rest hf ht hp hi hc hroom hpart hd hmid
  have hstart : State.NoFrameIn { s with port := rxFeed (part ++ ([chDollar] ++ mid ++ [chCr, chLf])) ++ rest } part :=
    ⟨⟨hf, ht, hp⟩, fun _ => hc, by simpa [hc] using hpart⟩
  obtain ⟨r, c, raws, hfirst, hraws⟩ := run_feedPart hstart (by rw [rxFeed_append, List.append_assoc])
  have hsecond := run_feedFrame (s := State.afterFeed _ r c raws (rxFeed ([chDollar] ++ mid ++ [chCr, chLf]) ++ rest))
    (mid := mid) (rest := rest) ⟨hf, ht, hp⟩ rfl hroom hd hmid
  refine ⟨raws, frameRecord s.params ([chDollar] ++ mid ++ [chCr, chLf]), ?_, by simpa [hc] using hraws,
    frameRecord_of_dec _ _⟩
  rw [show 2 * (part.length + mid.length + 3) = 2 * part.length + 2 * (mid.length + 3) by omega,
    run_append hfirst hsecond]
  simp [State.afterFeed, hi, hc]

end Sys2Proof.Machine
end

section
/-! The enabling table (43_session.md R150), one equation per agent, and that it decides between a next state and a fault. -/

namespace Sys2Proof.Machine

variable {i : Instr} {s : State}

theorem enabled_rx_iff (ha : agentOf i = some .rx) :
    enabled i s ↔ s.fatal = false ∧ s.rxPhase = (if isPoll i then .poll else .check) := by
  rw [enabled, ha]

theorem enabled_tx_iff (ha : agentOf i = some .tx) : enabled i s ↔ s.fatal = false ∧ s.txPhase = .read := by
  rw [enabled, ha]

theorem enabled_of_agentless (ha : agentOf i = none) : enabled i s := by
  rw [enabled, ha]
  trivial

theorem agentOf_of_isPoll (h : isPoll i = true) : agentOf i = some .rx := by
  cases i with
  | rxNone | rxDollar | rxLf | rxOther | rxIoerr => rfl
  | _ => cases h

theorem enabled_poll_iff (h : isPoll i = true) : enabled i s ↔ s.fatal = false ∧ s.rxPhase = .poll := by
  rw [enabled_rx_iff (agentOf_of_isPoll h), if_pos h]

/-- RX.CHECK is the one step of the RX agent that is no poll (R150). -/
theorem eq_rxCheck_of_not_isPoll (ha : agentOf i = some .rx) (h : isPoll i = false) : i = .rxCheck := by
  cases i with
  | rxCheck => rfl
  | rxNone | rxDollar | rxLf | rxOther | rxIoerr => cases h
  | _ => cases ha

theorem isUnitOp_or_reset_of_agentless (ha : agentOf i = none) : isUnitOp i = true ∨ i = .reset := by
  cases i with
  | reset => exact .inr rfl
  | ckClr | ckAcc | hexFmt | hexVal | enc | dec => exact .inl rfl
  | _ => cases ha

theorem exec_of_enabled (h : enabled i s) : ∃ t, exec i s = .next t := by
  rcases ha : agentOf i with _ | _ | _
  · obtain hu | rfl := isUnitOp_or_reset_of_agentless ha
    · obtain ⟨_, _, hx, -⟩ := exec_unitOp hu s
      exact ⟨_, hx⟩
    · exact ⟨_, rfl⟩
  · obtain ⟨u, hu⟩ := exec_eq_rxStep ha s
    obtain ⟨hf, hp⟩ := (enabled_rx_iff ha).1 h
    exact ⟨u, hu.trans (rxStep_eq_next.2 ⟨hf, hp, rfl⟩)⟩
  · obtain ⟨u, hu⟩ := exec_eq_txStep ha s
    obtain ⟨hf, hp⟩ := (enabled_tx_iff ha).1 h
    exact ⟨u, hu.trans (txStep_eq_next.2 ⟨hf, hp, rfl⟩)⟩

theorem exec_of_not_enabled (h : ¬enabled i s) : ∃ r, exec i s = .fault r := by
  rcases ha : agentOf i with _ | _ | _
  · exact absurd (enabled_of_agentless ha) h
  · obtain ⟨u, hu⟩ := exec_eq_rxStep ha s
    rw [hu]
    exact rxStep_stuck (mt (enabled_rx_iff ha).2 h)
  · obtain ⟨u, hu⟩ := exec_eq_txStep ha s
    rw [hu]
    exact txStep_stuck (mt (enabled_tx_iff ha).2 h)

/-- Settles O25: the table decides the outcome of exec, and its rows are those of `enabled`. -/
theorem enablingTable : Obligations.EnablingTable := by
  refine fun i s => ⟨exec_of_enabled, exec_of_not_enabled, fun _ => enabled_poll_iff, fun ha hi => ?_, enabled_tx_iff,
    fun ha => ⟨isUnitOp_or_reset_of_agentless ha, enabled_of_agentless ha⟩⟩
  obtain rfl := eq_rxCheck_of_not_isPoll ha hi
  exact ⟨rfl, enabled_rx_iff rfl⟩

end Sys2Proof.Machine
end

section
/-! The rows of the session outside RSM: RX.IOERR, RX.CHECK and TX.LINE (43_session.md R152, R158, R161 to R166). -/

namespace Sys2Proof.Machine

variable {s : State} {l : Bytes} {m : Bound}

/-- Settles O23: the effect of a failed read, and FATAL before every other status. -/
theorem readFailureIsFatal : Obligations.ReadFailureIsFatal :=
  fun _ _ hf hp =>
    ⟨exec_of_effect (.readFail hf hp), status_of_fatal rfl, rfl, decode_encode (i := .rxIoerr) rfl⟩

theorem exec_rxCheck_of_not_term (hf : s.fatal = false) (hp : s.rxPhase = .check) (ht : s.term = false) :
    exec .rxCheck s = .next (s.setRxPhase .poll) := by
  rw [exec_of_effect (.checked hf hp), ht]
  rfl

/-- Settles O24: RX.CHECK goes by `term`, no other effect needs its value (R26), and the table does not test it. -/
theorem checkTestsTerm : Obligations.CheckTestsTerm := by
  obtain ⟨-, hreads, -⟩ := termWritersAndReaders
  exact fun s _ =>
    ⟨exec_rxCheck_of_term, exec_rxCheck_of_not_term, rfl, decode_encode (i := .rxCheck) rfl,
      fun i t v => hreads i s t v, fun _ hi hf hp _ => exec_of_enabled ((enabled_poll_iff hi).2 ⟨hf, hp⟩)⟩

/-- Settles O26: the effect of an empty line is the state itself, for either write outcome. -/
theorem emptyLineIsNoOp : Obligations.EmptyLineIsNoOp :=
  fun _ _ hf hp =>
    ⟨exec_of_effect (.empty .ok hf hp), exec_of_effect (.empty .ioerr hf hp),
      decode_encode (i := .txEmpty .ok) rfl, decode_encode (i := .txEmpty .ioerr) rfl⟩

/-- Settles O27: after the effect of `exit` the send loop is at DONE, where the table enables no TX event. -/
theorem exitSetsTerm : Obligations.ExitSetsTerm := by
  refine fun s w _ hf hp => ⟨exec_of_effect (.exit w hf hp), decode_encode (i := .txExit .ok) rfl,
    decode_encode (i := .txExit .ioerr) rfl, fun i ha => exec_of_not_enabled fun h => ?_⟩
  obtain ⟨-, hread⟩ := (enabled_tx_iff ha).1 h
  cases hread

/-- Settles O28: the length decides the class (R72), and the effect reads nothing else of the line. -/
theorem tooLongLineIsReported : Obligations.TooLongLineIsReported := by
  intro s l k hf hp hlen _ hx
  have h0 : l ≠ [] := List.ne_nil_of_length_pos (by omega)
  have hdecode (w : WriteOutcome) :
      decode (.fin k) ⟨if w = .ok then 0x400 else 0x401, some l⟩ = .ok (.txTooLong w l) := by
    obtain ⟨-, -, htooLong, -⟩ := lineClassSelectsRow (.fin k) w l
    exact htooLong h0 hx ⟨k, rfl, hlen⟩
  exact ⟨hdecode .ok, hdecode .ioerr, exec_of_effect (.tooLong .ok l hf hp), exec_of_effect (.tooLong .ioerr l hf hp)⟩

/-- ENC refuses a line with a reserved byte only (41_codec.md R103). -/
theorem any_isReserved_of_enc_invalid {p : Bytes} (h : enc l = .invalidPayload p) : l.any isReserved = true := by
  cases hr : l.any isReserved with
  | true => rfl
  | false => cases (enc_frame hr).symm.trans h

/-- Settles O30: the three effects of TX.SEND, told apart by ENC's answer and the write outcome. -/
theorem frameIsWrittenThenEchoed : Obligations.FrameIsWrittenThenEchoed := by
  refine fun s l hf hp => ⟨fun h0 hx hfit => ?_, fun hinv w => ?_, fun f hframe => ?_⟩
  · have hdecode (w : WriteOutcome) :
        decode s.params.lineMax ⟨if w = .ok then 0x400 else 0x401, some l⟩ = .ok (.txSend w l) := by
      obtain ⟨-, -, -, hsend⟩ := lineClassSelectsRow s.params.lineMax w l
      exact hsend h0 hx hfit
    exact ⟨hdecode .ok, hdecode .ioerr⟩
  · exact exec_of_effect (.invalid w l hf hp (any_isReserved_of_enc_invalid hinv))
  · obtain ⟨hr, rfl⟩ := enc_eq_frame hframe
    exact ⟨⟨_, exec_of_effect (.written l hf hp hr), rfl⟩, _, exec_of_effect (.writeFail l hf hp hr), rfl⟩

end Sys2Proof.Machine
end

section
/-! Which steps append a record (43_session.md R171). -/

namespace Sys2Proof.Machine

variable {i : Instr} {s t : State}

/-- The four kinds of step that report something, as R171 lists them; `t` tells a failed write from a successful one. -/
def Reports (s : State) (i : Instr) (t : State) : Prop :=
  (i = .rxLf ∧ s.rsState = .collecting ∧ (s.params.candMax = .fin s.clen ∨ s.cand.getLast? = some chCr)) ∨
  (∃ b, i = .rxOther b ∧ s.rsState = .collecting ∧ s.params.candMax = .fin s.clen) ∨
  (∃ w l, i = .txTooLong w l) ∨
  (∃ w l, i = .txSend w l ∧ t.fatal = false)

theorem Effect.con_ne_iff (h : Effect s i t) : t.con ≠ s.con ↔ Reports s i t := by
  cases h with
  | discard _ _ hb hi => cases hb <;> simp [Reports, hi]
  | overflow _ _ hb hc hm => cases hb <;> simp_all [Reports, candFull_iff]
  | append _ _ _ _ hm => simpa [Reports] using fun _ => candFull_eq_false_iff.1 hm
  | appendLf _ _ _ hm hl => simpa [Reports] using fun _ => ⟨candFull_eq_false_iff.1 hm, hl⟩
  | complete _ _ hc _ hl => simp [Reports, hc, hl]
  | invalid _ _ hf | written _ hf => simpa [Reports] using hf
  | _ => simp [Reports]

/-- Settles O41: an effect appends a record or none, and appends one in the cases of R171. -/
theorem recordAccounting : Obligations.RecordAccounting := by
  intro i s t hx
  refine ⟨?_, (exec_effect hx).con_ne_iff⟩
  obtain ⟨r, ht, -⟩ := exec_outputs hx
  have hcon : t.con = s.con ++ r.toList := congrArg State.con ht
  cases r with
  | none => exact .inl (hcon.trans (List.append_nil _))
  | some r => exact .inr ⟨r, hcon⟩

end Sys2Proof.Machine
end

section
/-! After `exit` (43_session.md R170): without a RESET `term` stays set, and the RX agent has at most two steps left. -/

namespace Sys2Proof.Machine

variable {i : Instr} {s t : State} {e : PortEvent} {es rest : List PortEvent}

/-- `exit` has been typed: `term` is set and the send loop has ended (R163). -/
structure State.AfterExit (s : State) : Prop where
  term : s.term = true
  txPhase : s.txPhase = .done

theorem State.SessionInv.afterExit (h : s.SessionInv) (ht : s.term = true) : s.AfterExit := ⟨ht, h.term_iff.1 ht⟩

theorem Effect.afterExit (he : Effect s i t) (h : s.AfterExit) (hi : i ≠ .reset) : t.AfterExit := by
  cases he with
  | exit => exact ⟨rfl, rfl⟩
  | reset => exact absurd rfl hi
  | _ => exact ⟨h.term, h.txPhase⟩

/-- The steps the RX agent has left once `term` is set: a poll if it is at POLL, and the RX.CHECK that ends its loop. -/
def State.rxStepsLeft (s : State) : Nat :=
  if s.fatal then 0
  else match s.rxPhase with
    | .poll => 2
    | .check => 1
    | .done => 0

theorem rxStepsLeft_of_poll (hf : s.fatal = false) (hp : s.rxPhase = .poll) : s.rxStepsLeft = 2 := by
  simp [State.rxStepsLeft, hf, hp]

theorem rxStepsLeft_of_check (hf : s.fatal = false) (hp : s.rxPhase = .check) : s.rxStepsLeft = 1 := by
  simp [State.rxStepsLeft, hf, hp]

theorem rxStepsLeft_of_fatal (hf : s.fatal = true) : s.rxStepsLeft = 0 := by simp [State.rxStepsLeft, hf]

theorem rxStepsLeft_le (s : State) : s.rxStepsLeft ≤ 1 + if s.rxPhase = .poll then 1 else 0 := by
  cases hf : s.fatal <;> cases hp : s.rxPhase <;> simp [State.rxStepsLeft, hf, hp]

/-- A poll that does not fail ends at CHECK. -/
theorem Effect.poll_cases (he : Effect s i t) (hi : isPoll i = true) :
    s.fatal = false ∧ s.rxPhase = .poll ∧
      ((i = .rxIoerr ∧ t.fatal = true) ∨ (i ≠ .rxIoerr ∧ t.fatal = false ∧ t.rxPhase = .check)) := by
  cases he with
  | readFail hf hp => exact ⟨hf, hp, .inl ⟨rfl, rfl⟩⟩
  | none hf hp | start hf hp | append _ hf hp | appendLf hf hp | complete hf hp =>
    exact ⟨hf, hp, .inr ⟨nofun, hf, rfl⟩⟩
  | discard hf hp hb | overflow hf hp hb => exact ⟨hf, hp, .inr ⟨by cases hb <;> exact nofun, hf, rfl⟩⟩
  | _ => cases hi

/-- A poll leaves only the RX.CHECK. -/
theorem Effect.poll_rxStepsLeft (he : Effect s i t) (hi : isPoll i = true) :
    s.rxStepsLeft = 2 ∧ t.rxStepsLeft ≤ 1 := by
  obtain ⟨hf, hp, ⟨-, hfail⟩ | ⟨-, hok, hcheck⟩⟩ := he.poll_cases hi
  · exact ⟨rxStepsLeft_of_poll hf hp, by rw [rxStepsLeft_of_fatal hfail]; omega⟩
  · exact ⟨rxStepsLeft_of_poll hf hp, (rxStepsLeft_of_check hok hcheck).le⟩

theorem Effect.rxStepsLeft_lt (he : Effect s i t) (hs : s.AfterExit) (ha : agentOf i = some .rx) :
    t.rxStepsLeft < s.rxStepsLeft := by
  cases hi : isPoll i with
  | true =>
    obtain ⟨hs2, ht1⟩ := he.poll_rxStepsLeft hi
    omega
  | false =>
    obtain rfl := eq_rxCheck_of_not_isPoll ha hi
    cases he with
    | checked hf hp => simp [State.rxStepsLeft, hs.term, hf, hp]
    | discard _ _ hb | overflow _ _ hb => cases hb

theorem Effect.rxStepsLeft_le (he : Effect s i t) (hs : s.AfterExit) (hi : i ≠ .reset) :
    t.rxStepsLeft ≤ s.rxStepsLeft := by
  by_cases ha : agentOf i = some .rx
  · exact (he.rxStepsLeft_lt hs ha).le
  · cases he with
    | discard _ _ hb | overflow _ _ hb => cases hb <;> exact absurd rfl ha
    | none | start | append | appendLf | complete | readFail | checked => exact absurd rfl ha
    | writeFail => exact (rxStepsLeft_of_fatal rfl).trans_le (Nat.zero_le _)
    | reset => exact absurd rfl hi
    | _ => exact le_rfl

/-- After `exit` only polls report (R170): the send loop has ended. -/
theorem Effect.con_length_le (he : Effect s i t) (hs : s.AfterExit) :
    t.con.length ≤ s.con.length + if isPoll i then 1 else 0 := by
  cases he with
  | overflow _ _ hb => cases hb <;> simp [isPoll]
  | complete => simp [isPoll]
  | tooLong _ _ _ hp | invalid _ _ _ hp | written _ _ hp => cases hs.txPhase.symm.trans hp
  | _ => exact Nat.le_add_right _ _

/-- What the host still offers is not read or written by an effect. -/
theorem Effect.port_eq (he : Effect s i t) : t.port = s.port := by cases he <;> rfl

/-- The polls are the events of the classes 0x0 to 0x2 (30_encoding.md R76). -/
theorem isPoll_eq_of_encode (h : encode i = e) : isPoll i = decide (e.ev.toNat / 256 ≤ 2) := by
  rw [← h, ← evClass_toNat]
  cases i <;> simp [encode, isPoll]

/-- A step that finds an event on the port took it. -/
theorem effect_of_step_cons (hp : s.port = e :: rest) (h : step s = .next t) :
    ∃ i, encode i = e ∧ Effect { s with port := rest } i t := by
  cases hd : decode s.params.lineMax e with
  | error r => cases (step_of_decode_error hp hd).symm.trans h
  | ok i => exact ⟨i, encode_of_decode hd, exec_effect ((step_of_decode_ok hp hd).symm.trans h)⟩

/-- The polls among the events of a run after `exit`, and the records it appends. -/
theorem run_afterExit (hs : s.AfterExit) (hp : s.port = es) (hreset : ∀ e ∈ es, e.ev ≠ 0xF00)
    (h : run es.length s = .next t) :
    (es.filter fun e => decide (e.ev.toNat / 256 ≤ 2)).length ≤ s.rxStepsLeft - 1 ∧
    t.con.length ≤ s.con.length + (es.filter fun e => decide (e.ev.toNat / 256 ≤ 2)).length := by
  induction es generalizing s with
  | nil =>
    obtain rfl : s = t := Host.Outcome.next.inj h
    simp
  | cons e es ih =>
    obtain ⟨u, hu, ht⟩ := run_succ_eq_next.1 h
    obtain ⟨i, hi, he⟩ := effect_of_step_cons hp hu
    have hs' : State.AfterExit { s with port := es } := ⟨hs.term, hs.txPhase⟩
    have hne : i ≠ .reset := by
      rintro rfl
      exact hreset e List.mem_cons_self (by rw [← hi]; rfl)
    obtain ⟨hpolls, hcon⟩ := ih (he.afterExit hs' hne) he.port_eq
      (fun e h => hreset e (List.mem_cons_of_mem _ h)) ht
    have hcon' : u.con.length ≤ s.con.length + if isPoll i then 1 else 0 := he.con_length_le hs'
    have hleft : u.rxStepsLeft ≤ s.rxStepsLeft := he.rxStepsLeft_le hs' hne
    rw [List.filter_cons, ← isPoll_eq_of_encode hi]
    cases hpoll : isPoll i with
    | true =>
      have hpl : s.rxStepsLeft = 2 ∧ u.rxStepsLeft ≤ 1 := he.poll_rxStepsLeft hpoll
      simp only [hpoll, if_true, List.length_cons] at hcon' ⊢
      omega
    | false =>
      simp only [hpoll, Bool.false_eq_true, if_false] at hcon' ⊢
      omega

/-- Settles O57: of the RX steps left after `exit`, all but the RX.CHECK are polls, and only polls report. -/
theorem atMostOnePollAfterExit : Obligations.AtMostOnePollAfterExit := by
  intro s t es hinv hterm hreset hrun
  obtain ⟨htm, htx⟩ := hinv.afterExit hterm
  obtain ⟨hpolls, hcon⟩ := run_afterExit (s := { s with port := es }) ⟨htm, htx⟩ rfl hreset hrun
  have hleft := rxStepsLeft_le { s with port := es }
  dsimp only at hpolls hcon hleft
  constructor <;> omega

/-- RX.CHECK after `exit` ends the run CLEAN (R168). -/
theorem step_rxCheck_ends (hs : s.AfterExit) (hf : s.fatal = false) (hc : s.rxPhase = .check)
    (hp : s.port = encode .rxCheck :: rest) :
    ∃ t, step s = .next t ∧ t.status = .clean ∧ t.exitCode = some 0 := by
  have hx : exec .rxCheck { s with port := rest } = .next ({ s with port := rest }.setRxPhase .done) :=
    exec_rxCheck_of_term hf hc hs.term
  obtain ⟨-, hclean, -⟩ := statusAndExitCode ({ s with port := rest }.setRxPhase .done)
  exact ⟨_, (step_of_decode_ok hp (decode_encode rfl)).trans hx, hclean hf rfl hs.txPhase⟩

/-- A poll that is enabled and offered next is taken. -/
theorem step_poll (hi : isPoll i = true) (hw : i.wf s.params.lineMax = true) (hf : s.fatal = false)
    (hc : s.rxPhase = .poll) (hp : s.port = encode i :: rest) :
    ∃ t, step s = .next t ∧ Effect { s with port := rest } i t := by
  obtain ⟨t, ht⟩ := exec_of_enabled (s := { s with port := rest }) ((enabled_poll_iff hi).2 ⟨hf, hc⟩)
  exact ⟨t, (step_of_decode_ok hp (decode_encode hw)).trans ht, exec_effect ht⟩

/-- Settles O58: a poll fails, or leads to CHECK, where RX.CHECK finds `term` set. -/
theorem sessionEndsAfterExit : Obligations.SessionEndsAfterExit := by
  intro s rest hinv hterm hf
  obtain ⟨htm, htx⟩ := hinv.afterExit hterm
  refine ⟨fun hc => step_rxCheck_ends (s := { s with port := _ }) ⟨htm, htx⟩ hf hc rfl,
    fun hc i hi hw => ⟨fun hfail => ?_, fun hok => ?_⟩⟩
  · obtain ⟨t, ht, he⟩ := step_poll (s := { s with port := encode i :: rest }) hi hw hf hc rfl
    obtain ⟨-, -, ⟨-, hft⟩ | ⟨hne, -, -⟩⟩ := he.poll_cases hi
    · exact ⟨t, ht, status_of_fatal hft⟩
    · exact absurd hfail hne
  · obtain ⟨u, hu, he⟩ := step_poll (s := { s with port := encode i :: encode .rxCheck :: rest }) hi hw hf hc rfl
    obtain ⟨-, -, ⟨hfail, -⟩ | ⟨-, hfu, hcu⟩⟩ := he.poll_cases hi
    · exact absurd hfail hok
    · have hne : i ≠ .reset := by rintro rfl; cases hi
      obtain ⟨t, ht, hclean⟩ := step_rxCheck_ends (he.afterExit ⟨htm, htx⟩ hne) hfu hcu he.port_eq
      exact ⟨t, by rw [run_succ_of_next hu, run_succ_of_next ht, run_zero], hclean⟩

end Sys2Proof.Machine
end

section
/-! Runs without end, and the progress assumption (43_session.md R167). -/

namespace Sys2Proof.Machine

variable {i : Instr} {s t : State} {offers : Nat → List PortEvent} {run : Nat → State} {n : Nat}

theorem rxHasStep_iff_enabled : s.rxHasStep = true ↔ ∃ i, agentOf i = some .rx ∧ enabled i s := by
  rw [rxHasStep_iff]
  constructor
  · rintro ⟨hf, hp⟩
    cases hc : s.rxPhase with
    | check => exact ⟨.rxCheck, rfl, (enabled_rx_iff rfl).2 ⟨hf, hc⟩⟩
    | poll => exact ⟨.rxNone, rfl, (enabled_poll_iff rfl).2 ⟨hf, hc⟩⟩
    | done => exact absurd hc hp
  · rintro ⟨i, ha, hi⟩
    obtain ⟨hf, hp⟩ := (enabled_rx_iff ha).1 hi
    refine ⟨hf, ?_⟩
    rw [hp]
    split <;> exact nofun

/-- A step of a run waits, or has the effect of the instruction it takes; what is offered counts for that choice alone. -/
theorem EndlessRun.step_cases (h : EndlessRun offers run) (n : Nat) :
    (takenAt offers run n = none ∧ run (n + 1) = (run n).offer (offers n)) ∨
    ∃ i rest, takenAt offers run n = some i ∧ Effect { run n with port := rest } i (run (n + 1)) := by
  obtain hwait | ⟨_, rest, i, -, hi, hx⟩ := step_taken (h n)
  · exact .inl hwait
  · exact .inr ⟨i, rest, hi, exec_effect hx⟩

theorem EndlessRun.effect_of_takenAt (h : EndlessRun offers run) (hi : takenAt offers run n = some i) :
    ∃ rest, Effect { run n with port := rest } i (run (n + 1)) := by
  obtain ⟨hnone, -⟩ | ⟨j, rest, hj, he⟩ := h.step_cases n
  · cases hnone.symm.trans hi
  · obtain rfl : i = j := Option.some.inj (hi.symm.trans hj)
    exact ⟨rest, he⟩

/-- What each effect taken between the `n`-th and the `k`-th state keeps, and no offer touches, still holds at the
`k`-th. -/
theorem EndlessRun.preserves {P : State → Prop} {k : Nat} (h : EndlessRun offers run)
    (hport : ∀ {s : State} (es : List PortEvent), P s → P { s with port := es })
    (heffect : ∀ {j i s t}, n ≤ j → j < k → takenAt offers run j = some i → Effect s i t → P s → P t)
    (hn : P (run n)) (hk : n ≤ k) : P (run k) := by
  induction k, hk using Nat.le_induction with
  | base => exact hn
  | succ k hk ih =>
    have hPk : P (run k) := ih fun hj hjk => heffect hj (by omega)
    obtain ⟨-, hwait⟩ | ⟨i, rest, hi, he⟩ := h.step_cases k
    · rw [hwait]
      exact hport _ hPk
    · exact heffect hk k.lt_succ_self hi he (hport rest hPk)

/-! How a run can end. -/

/-- Neither `exit` nor a transport failure has happened. -/
structure State.SendOpen (s : State) : Prop where
  fatal : s.fatal = false
  txPhase : s.txPhase = .read

theorem State.SendOpen.status (h : s.SendOpen) : s.status = .running :=
  status_of_notBothDone h.fatal (by simp [h.txPhase])

theorem Effect.sendOpen (he : Effect s i t) (h : s.SendOpen) (hexit : isExit i = false)
    (hfail : isTransportFailure i = false) : t.SendOpen := by
  cases he with
  | readFail | writeFail => cases hfail
  | exit => cases hexit
  | reset => exact ⟨rfl, rfl⟩
  | _ => exact ⟨h.fatal, h.txPhase⟩

/-- "So a run ends only if the operator types `exit` or a transport failure occurs" (R167). -/
theorem EndlessRun.exit_or_failure_of_ended {p : Params} (h : EndlessRun offers run)
    (h0 : run 0 = State.resetWith p) (hn : (run n).status ≠ .running) :
    ∃ k i, k < n ∧ takenAt offers run k = some i ∧ (isExit i = true ∨ isTransportFailure i = true) := by
  by_contra hnone
  have hopen : (run n).SendOpen := by
    refine h.preserves (n := 0) (fun _ hs => ⟨hs.fatal, hs.txPhase⟩) (fun {k i _ _} _ hk hi he hs => ?_)
      (h0 ▸ ⟨rfl, rfl⟩) n.zero_le
    exact he.sendOpen hs (Bool.eq_false_iff.2 fun hx => hnone ⟨k, i, hk, hi, .inl hx⟩)
      (Bool.eq_false_iff.2 fun hx => hnone ⟨k, i, hk, hi, .inr hx⟩)
  exact hn hopen.status

/-! A run that has ended. -/

/-- At the end of a run only RESET and the unit operations are left (R150), and the latter keep the status. -/
theorem Effect.status_of_ended (he : Effect s i t) (hs : s.status ≠ .running) (hi : i ≠ .reset) :
    t.status = s.status := by
  have hrx {p : RxPhase} (hf : s.fatal = false) (hp : s.rxPhase = p) : p = .done := by
    by_contra hne
    exact hs (status_of_notBothDone hf (by simp [hp, hne]))
  have htx (hf : s.fatal = false) (hp : s.txPhase = .read) : False :=
    hs (status_of_notBothDone hf (by simp [hp]))
  cases he with
  | none hf hp | start hf hp | discard hf hp | overflow hf hp | append _ hf hp | appendLf hf hp | complete hf hp
  | readFail hf hp | checked hf hp => cases hrx hf hp
  | empty _ hf hp | exit _ hf hp | tooLong _ _ hf hp | invalid _ _ hf hp | written _ hf hp | writeFail _ hf hp =>
    exact (htx hf hp).elim
  | reset => exact absurd rfl hi
  | _ => rfl

theorem EndlessRun.status_of_ended (h : EndlessRun offers run) (hn : (run n).status ≠ .running)
    (hreset : ∀ k, n ≤ k → takenAt offers run k ≠ some .reset) {k : Nat} (hk : n ≤ k) :
    (run k).status = (run n).status := by
  refine h.preserves (P := fun u => u.status = (run n).status) (fun _ hu => hu) (fun hj _ hi he hu => ?_) rfl hk
  exact (he.status_of_ended (hu ▸ hn) fun hr => hreset _ hj (hr ▸ hi)).trans hu

/-- R167 asks nothing of a run that ends: the RX agent has no step from there on. -/
theorem EndlessRun.progressRun_of_ended (h : EndlessRun offers run) (hn : (run n).status ≠ .running)
    (hreset : ∀ k, n ≤ k → takenAt offers run k ≠ some .reset) : ProgressRun offers run where
  steps := h
  rxFair m _ := by
    refine ⟨max m n, le_max_left m n, .inr (rxHasStep_of_ended ?_)⟩
    rw [h.status_of_ended hn hreset (le_max_right m n)]
    exact hn

/-! A run in which `exit` is typed. -/

theorem Effect.afterExit_of_isExit (he : Effect s i t) (hi : isExit i = true) : t.AfterExit := by
  cases he with
  | exit => exact ⟨rfl, rfl⟩
  | discard _ _ hb | overflow _ _ hb => cases hb <;> cases hi
  | _ => cases hi

theorem State.AfterExit.ended (hs : s.AfterExit) (h : s.rxHasStep = false) : s.status ≠ .running := by
  cases hf : s.fatal with
  | true => rw [status_of_fatal hf]; exact nofun
  | false =>
    have hd : s.rxPhase = .done := by simpa [State.rxHasStep, hf] using h
    rw [status_of_bothDone hf hd hs.txPhase]
    exact nofun

theorem EndlessRun.afterExit_from (h : EndlessRun offers run) (hn : (run n).AfterExit)
    (hreset : ∀ k, n ≤ k → takenAt offers run k ≠ some .reset) {k : Nat} (hk : n ≤ k) :
    (run k).AfterExit ∧ (run k).rxStepsLeft ≤ (run n).rxStepsLeft := by
  refine h.preserves (P := fun u => u.AfterExit ∧ u.rxStepsLeft ≤ (run n).rxStepsLeft)
    (fun _ ⟨⟨hterm, htx⟩, hle⟩ => ⟨⟨hterm, htx⟩, hle⟩) (fun {_ i _ _} hj _ hi he ⟨hs, hle⟩ => ?_) ⟨hn, le_rfl⟩ hk
  have hne : i ≠ .reset := fun hr => hreset _ hj (hr ▸ hi)
  exact ⟨he.afterExit hs hne, (he.rxStepsLeft_le hs hne).trans hle⟩

/-- After `exit` a fair run ends: by induction on the steps the RX agent has left, each of which it takes, unless a
failed write ends the run first. -/
theorem ProgressRun.ends_of_afterExit (h : ProgressRun offers run) (hn : (run n).AfterExit)
    (hreset : ∀ k, n ≤ k → takenAt offers run k ≠ some .reset) : ∃ k, n ≤ k ∧ (run k).status ≠ .running := by
  induction hc : (run n).rxStepsLeft using Nat.strong_induction_on generalizing n with
  | _ c ih =>
    cases hstep : (run n).rxHasStep with
    | false => exact ⟨n, le_rfl, hn.ended hstep⟩
    | true =>
      obtain ⟨m, hm, ⟨i, hi, ha⟩ | hlost⟩ := h.rxFair n hstep
      · obtain ⟨hexit, hle⟩ := h.steps.afterExit_from hn hreset hm
        obtain ⟨rest, he⟩ := h.steps.effect_of_takenAt hi
        have hport : State.AfterExit { run m with port := rest } := ⟨hexit.term, hexit.txPhase⟩
        have hlt : (run (m + 1)).rxStepsLeft < (run m).rxStepsLeft := he.rxStepsLeft_lt hport ha
        have hexit' : (run (m + 1)).AfterExit := he.afterExit hport fun hr => hreset m hm (hr ▸ hi)
        obtain ⟨k, hk, hended⟩ := ih _ (by omega) hexit' (fun k hk => hreset k (by omega)) rfl
        exact ⟨k, by omega, hended⟩
      · obtain ⟨hexit, -⟩ := h.steps.afterExit_from hn hreset hm
        exact ⟨m, hm, hexit.ended hlost⟩

theorem ProgressRun.ends_of_exit (h : ProgressRun offers run) (hi : takenAt offers run n = some i)
    (hexit : isExit i = true) (hreset : ∀ k, n ≤ k → takenAt offers run k ≠ some .reset) :
    ∃ k, n ≤ k ∧ (run k).status ≠ .running := by
  obtain ⟨rest, he⟩ := h.steps.effect_of_takenAt hi
  obtain ⟨k, hk, hended⟩ := h.ends_of_afterExit (he.afterExit_of_isExit hexit) fun k hk => hreset k (by omega)
  exact ⟨k, by omega, hended⟩

/-! Two runs that R167 allows. -/

theorem taken_of_decode_ok {e : PortEvent} {rest : List PortEvent} (hp : s.port = e :: rest)
    (hd : decode s.params.lineMax e = .ok i) : s.taken = some i := by
  simp only [State.taken, takeEvent_of_port_cons hp, hd, Except.toOption]

theorem taken_of_port_nil (hp : s.port = []) : s.taken = none := by
  simp only [State.taken, takeEvent_of_port_nil hp]

/-- The RX agent tests `term` and polls in turn, and no byte comes. -/
def idleInstr (n : Nat) : Instr := if n % 2 = 0 then .rxCheck else .rxNone

def idleOffers (n : Nat) : List PortEvent := [encode (idleInstr n)]

/-- The states of that run. -/
def idleRun (p : Params) (n : Nat) : State := (State.resetWith p).setRxPhase (if n % 2 = 0 then .check else .poll)

theorem idleInstr_cases (n : Nat) :
    (n % 2 = 0 ∧ (n + 1) % 2 = 1 ∧ idleInstr n = .rxCheck) ∨ (n % 2 = 1 ∧ (n + 1) % 2 = 0 ∧ idleInstr n = .rxNone) := by
  unfold idleInstr
  split <;> simp <;> omega

theorem agentOf_idleInstr (n : Nat) : agentOf (idleInstr n) = some .rx := by
  obtain ⟨-, -, h⟩ | ⟨-, -, h⟩ := idleInstr_cases n <;> rw [h] <;> rfl

theorem decode_idleInstr (m : Bound) (n : Nat) : decode m (encode (idleInstr n)) = .ok (idleInstr n) := by
  obtain ⟨-, -, h⟩ | ⟨-, -, h⟩ := idleInstr_cases n <;> rw [h] <;> exact decode_encode rfl

theorem effect_idleRun (p : Params) (n : Nat) : Effect (idleRun p n) (idleInstr n) (idleRun p (n + 1)) := by
  obtain ⟨h, h', hi⟩ | ⟨h, h', hi⟩ := idleInstr_cases n <;> rw [idleRun, idleRun, h, h', hi]
  · exact .checked rfl rfl
  · exact .none rfl rfl

theorem takenAt_idleRun (p : Params) (n : Nat) : takenAt idleOffers (idleRun p) n = some (idleInstr n) :=
  taken_of_decode_ok rfl (decode_idleInstr _ n)

theorem idleRun_progressRun (p : Params) : ProgressRun idleOffers (idleRun p) where
  steps n := step_of_effect rfl (decode_idleInstr _ n) (effect_idleRun p n)
  rxFair n _ := ⟨n, le_rfl, .inl ⟨_, takenAt_idleRun p n, agentOf_idleInstr n⟩⟩

/-- One line, whose write fails, and nothing more. -/
def failedWriteOffers : Nat → List PortEvent
  | 0 => [encode (.txSend .ioerr [0x41])]
  | _ + 1 => []

/-- The states of that run. -/
def failedWriteRun (p : Params) : Nat → State
  | 0 => State.resetWith p
  | _ + 1 => ((State.resetWith p).txWriteFail (frameOf [0x41])).transportFail

theorem lineMax_atLeast_one {p : Params} (h : p.wf = true) : p.lineMax.atLeast 1 = true := by
  simp only [Params.wf, Bool.and_eq_true] at h
  obtain ⟨⟨⟨-, hline⟩, -⟩, -⟩ := h
  exact hline

/-- LINE_MAX is at least 1 (00_scope.md R6), so a line of one byte can be sent. -/
theorem decode_oneByteLine {p : Params} (hp : p.wf = true) :
    decode p.lineMax (encode (.txSend .ioerr [0x41])) = .ok (.txSend .ioerr [0x41]) := by
  refine decode_encode ?_
  rw [Instr.wf, beq_iff_eq, lineClass_eq_send]
  refine ⟨by decide, by decide, exceeds_eq_false.2 fun k hk => ?_⟩
  have hone := lineMax_atLeast_one hp
  rw [hk] at hone
  exact of_decide_eq_true hone

theorem failedWriteRun_endlessRun {p : Params} (hp : p.wf = true) :
    EndlessRun failedWriteOffers (failedWriteRun p)
  | 0 => step_of_effect rfl (decode_oneByteLine hp) (.writeFail [0x41] rfl rfl (by decide))
  | _ + 1 => step_of_port_nil rfl

theorem takenAt_failedWriteRun_ne_reset {p : Params} (hp : p.wf = true) (k : Nat) :
    takenAt failedWriteOffers (failedWriteRun p) k ≠ some .reset := by
  cases k with
  | zero =>
    rw [takenAt, taken_of_decode_ok rfl (decode_oneByteLine hp)]
    exact nofun
  | succ k =>
    rw [takenAt, taken_of_port_nil rfl]
    exact nofun

/-- Settles O60: a run ends only when the send loop is no longer open; a fair run uses up the steps the RX agent has left
after `exit`; the two runs above are fair, one idle for ever and one ended by its first step. -/
theorem runsEndByExitOrFailure : Obligations.RunsEndByExitOrFailure := by
  refine ⟨fun _ => rxHasStep_iff_enabled, fun _ _ _ _ h h0 hn => h.exit_or_failure_of_ended h0 hn,
    fun _ _ _ _ h _ hi hexit hreset => h.ends_of_exit hi hexit hreset, fun p => ?_,
    fun _ _ _ h hn hreset => ⟨h.progressRun_of_ended hn hreset, fun _ => h.status_of_ended hn hreset⟩, fun p hp => ?_⟩
  · refine ⟨idleOffers, idleRun p, idleRun_progressRun p, rfl,
      fun n => (show (idleRun p n).SendOpen from ⟨rfl, rfl⟩).status, fun n i hi => ?_⟩
    obtain rfl : idleInstr n = i := Option.some.inj ((takenAt_idleRun p n).symm.trans hi)
    rw [agentOf_idleInstr]
    exact nofun
  · have hfatal (k : Nat) (hk : 1 ≤ k) : (failedWriteRun p k).status = .fatal := by
      obtain ⟨j, rfl⟩ : ∃ j, k = j + 1 := ⟨k - 1, by omega⟩
      exact status_of_fatal rfl
    have hended : (failedWriteRun p 1).status ≠ .running := by rw [hfatal 1 le_rfl]; exact nofun
    have hreset := takenAt_failedWriteRun_ne_reset hp
    exact ⟨failedWriteOffers, failedWriteRun p, [0x41],
      (failedWriteRun_endlessRun hp).progressRun_of_ended hended fun k _ => hreset k, rfl,
      taken_of_decode_ok rfl (decode_oneByteLine hp), hreset, hfatal⟩

end Sys2Proof.Machine
end

section
/-! InvalidPayload on the send path: a line with a reserved byte is reported and dropped (60_exceptions.md R181). -/

namespace Sys2Proof.Machine

/-- Settles O29: the effect of TX.SEND on such a line emits one record, and that of ENC appends one answer. -/
theorem invalidLineIsReportedAndDropped : Obligations.InvalidLineIsReportedAndDropped := by
  intro s w l hf hp hreserved
  have hr : l.any isReserved = true := any_isReserved_eq_true.2 hreserved
  exact ⟨enc_invalid hr, exec_of_effect (.invalid w l hf hp hr), _, exec_of_effect (.enc l), rfl, rfl, hp⟩

end Sys2Proof.Machine
end

section
/-! RESET and boot: the two ways into the reset state (70_reset_and_hazards.md R210-R213). -/

namespace Sys2Proof.Machine

variable {p : Params} {args : List Bytes}

theorem status_resetBlock (s : State) : s.resetBlock.status = .running :=
  status_of_notBothDone rfl nofun

/-- Settles O33: each field of `resetBlock`, and no effect but `reset` leaves the status of an ended state. -/
theorem resetRestoresResetValues : Obligations.ResetRestoresResetValues :=
  ⟨fun s _ => ⟨s.resetBlock, exec_of_effect .reset, rfl, rfl, rfl, rfl, rfl, rfl, rfl, rfl, rfl, rfl,
      status_resetBlock s, rfl, decode_encode (i := .reset) rfl⟩,
    fun _ _ _ hx hs hne => by_contra fun hi => hne ((exec_effect hx).status_of_ended hs hi)⟩

theorem boot_handle (p : Params) (d : Bytes) :
    boot p [d] .handle = .next (State.resetWith { p with deviceId := d }) := rfl

theorem boot_failed (p : Params) (d : Bytes) :
    boot p [d] .failed = .next (State.resetWith { p with deviceId := d }).transportFail := rfl

theorem boot_of_length_ne_one (h : args.length ≠ 1) (a : OpenOutcome) :
    boot p args a = .refused (.launchArguments args.length) := by
  match args with
  | [] | _ :: _ :: _ => rfl
  | [_] => exact absurd rfl h

/-- Settles O35: one equation of `boot` per outcome; a transport failure sets `fatal`, which stops both agents. -/
theorem bootOpensTransportFirst : Obligations.BootOpensTransportFirst := by
  refine fun p args a => ⟨?_, fun h => ⟨_, boot_of_length_ne_one h a⟩⟩
  rintro d rfl
  exact ⟨boot_handle p d, _, boot_failed p d, status_of_fatal rfl, rfl, fun _ hi => ⟨_, exec_agent_of_fatal hi rfl⟩⟩

end Sys2Proof.Machine
end
